-- ==== Sys2Proof/Word.lean ====
section
/-! DEFINITION. The block's word types (00_scope R9, 30_encoding R45) and the two selections an operand can name. -/

namespace Sys2Proof

/-- A byte of SharedMemory or of the external bus (R32). -/
abbrev Byte := BitVec 8

/-- An Apbp value or a host token, `APBP_W = 16` (R7, R21, R22). -/
abbrev Half := BitVec 16

/-- A transaction word, a period, a counter, an address, a length or a step count (R7, R45). -/
abbrev Word := BitVec 32

/-- An interrupt vector, `0x0` to `0xF` (R7, R14). -/
abbrev Vec := BitVec 4

/-- Timer or Btdmp number 0 or 1, the header's field K (R45). -/
inductive UnitId where
  | u0
  | u1
  deriving DecidableEq, Repr

/-- The direction of a DMA transfer, the header's bit E (R47): 0 is SharedMemory to external. -/
inductive Dir where
  | toExt
  | fromExt
  deriving DecidableEq, Repr

/-- The three issuers of transactions (R13, R119). -/
inductive Agent where
  | host
  | processor
  | engine
  deriving DecidableEq, Repr

end Sys2Proof
end

