-- ==== Sys2Proof/Config.lean ====
section
/-! DEFINITION. What an implementation fixes (00_scope R7, R8), the vocabulary its parameters are written in,
and the free values: opaque constants without a body, of which no proof can learn a value. -/

namespace Sys2Proof

/-! Constants of R7. The vectors stand here once, as R8 asks. -/

/-- `VEC_TIMER1` (R7). -/
def Config.vecTimer1 : Vec := 0x9

/-- `VEC_TIMER0` (R7). -/
def Config.vecTimer0 : Vec := 0xA

/-- `VEC_BTDMP`, shared by both units (R7). -/
def Config.vecBtdmp : Vec := 0xB

/-- `VEC_APBP` (R7). -/
def Config.vecApbp : Vec := 0xE

/-- `VEC_DMA` (R7). -/
def Config.vecDma : Vec := 0xF

/-- `AHBM_DEFAULT`, what an uninstalled Ahbm read returns (R7, R68). -/
def Config.ahbmDefault : Byte := 0x00

/-- One past the last external address, `EXT_ADDR_W = 32` (R7). -/
def Config.extEnd : Nat := 2 ^ 32

/-! Vocabulary. -/

/-- A vector's delivery mode at the ICU (R14, R17). -/
inductive Route where
  | direct
  | vectored
  | masked
  deriving DecidableEq, Repr

/-- Which of the ICU's two outputs is called (R53). -/
inductive Delivery where
  | direct
  | vectored
  deriving DecidableEq, Repr

/-- One of the three Apbp data slots (R7, R21). -/
inductive Slot where
  | s0
  | s1
  | s2
  deriving DecidableEq, Repr

/-- A completion handler (R14, R22): nothing, a call of `TRIGGER_SINGLE`, or a host callback's token. -/
inductive Handler where
  | none
  | icu (v : Vec)
  | host (t : Half)
  deriving DecidableEq, Repr

/-- What a handler is called for (R55, R63, R67, R98). -/
inductive Source where
  | data (i : Slot)
  | sem
  | timer (k : UnitId)
  | btdmp (k : UnitId)
  | dma
  deriving DecidableEq, Repr

/-- The block's fault codes (R110). -/
inductive FaultCode where
  /-- An illegal or reserved transaction word. -/
  | encoding
  /-- A legal word from an agent that may not issue it. -/
  | agent
  /-- Apbp slot index 3. -/
  | index
  /-- A vector triggered while it is being triggered. -/
  | reentrantTrigger
  /-- `RUN` while a run or a handler is executing. -/
  | reentrantRun
  /-- A timer enabled with period 0. -/
  | timerPeriodZero
  /-- A Btdmp unit enabled with period 0. -/
  | btdmpPeriodZero
  /-- A SharedMemory address outside SharedMemory. -/
  | memRange
  /-- An external run past the last external address. -/
  | extRange
  deriving DecidableEq, Repr

/-- An event of the block's history (R27). -/
inductive Event where
  | raise (v : Vec)
  | deliver (d : Delivery) (v : Vec)
  | suppressed (v : Vec)
  | hostCb (t : Half) (src : Source)
  | extRd (a : Word) (b : Byte)
  | extWr (a : Word) (b : Byte)
  | result (who : Agent) (x : Nat)
  | stepBegin (n : Nat)
  | resetDone
  | faultEv (c : FaultCode)
  deriving DecidableEq, Repr

/-- A transaction at a port: its header word and the three extension lanes (R45).
A transaction uses as many lanes as its operation has extension words and no rule reads the others (R46). -/
structure Words where
  w : Word
  x1 : Word
  x2 : Word
  x3 : Word
  deriving DecidableEq, Repr

/-- The Processor's state, opaque to the spec (R25): a number stands for it, and no rule looks at it.
PRESUMED (log 6): the Processor has countably many states. -/
abbrev ProcState := Nat

/-- A move of the Processor (R99). -/
inductive ProcMove where
  /-- It goes to state `p` and issues the action `a`. -/
  | act (p : ProcState) (a : Words)
  /-- It ends the step in state `p`. -/
  | done (p : ProcState)
  deriving DecidableEq, Repr

/-- A Btdmp unit's streaming state, opaque to the spec (R20): a number stands for it (log 6). -/
abbrev BtdmpAux := Nat

/-- A Btdmp unit (R20), the `UnitState` of R95. -/
structure Btdmp where
  enabled : Bool
  period : Word
  counter : Word
  aux : BtdmpAux
  deriving DecidableEq, Repr, Inhabited

/-- The unit value: the one value of `aux` under `Periodic` (R7, R96). Zero stands for it (log 6). -/
def Config.btdmpAuxUnit : BtdmpAux := 0

/-- Which `BTDMP_POLICY` the block has (R95, R96): the reference instance, or one about which nothing is known, with the
`BTDMP_AUX_RESET` that is part of it (R7). -/
inductive BtdmpPolicy where
  | periodic
  | unspecified (auxReset : BtdmpAux)
  deriving DecidableEq, Repr

/-- `BTDMP_AUX_RESET`, part of the policy: the unit value under `Periodic` (R7). -/
def BtdmpPolicy.auxReset : BtdmpPolicy → BtdmpAux
  | .periodic => Config.btdmpAuxUnit
  | .unspecified a => a

/-- The open parameters of R7 that are plain data. They stand in the state, where no transaction writes them,
so that a statement about every state holds for every value of them (log 5). -/
structure Params where
  /-- The last address of SharedMemory, `SHMEM_SIZE - 1`: SharedMemory has at least one byte. -/
  shmemLast : Nat
  /-- `ICU_ROUTE_RESET`. -/
  icuRouteReset : Vector Route 16
  /-- `BTDMP_POLICY`, with its `BTDMP_AUX_RESET`. -/
  btdmpPolicy : BtdmpPolicy
  deriving DecidableEq, Repr

/-- `SHMEM_SIZE`, at least 1 (R7). -/
def Params.shmemSize (c : Params) : Nat := c.shmemLast + 1

/-- `BTDMP_AUX_RESET` (R7). -/
def Params.btdmpAuxReset (c : Params) : BtdmpAux := c.btdmpPolicy.auxReset

/-- The values the spec's test vectors take for its open parameters (95_test_vectors, Conventions).
DESIGN CHOICE (log 5), unsafe: they are test choices, not facts of the block. -/
def Params.reference : Params where
  shmemLast := 0xFFF
  icuRouteReset := Vector.replicate 16 .direct
  btdmpPolicy := .periodic

/-! Free values. A draw is numbered by the count of draws made before it, so each is fresh. -/

/-- `PROC.next` (R99): the move the Processor makes at draw `d` from its state and the history, or no move. -/
opaque Config.procNext (d : Nat) (p : ProcState) (h : List Event) : Option ProcMove

/-- How many moves the Processor makes at most in a step, by the draw at which the step begins (R100):
past them the step never ends. -/
opaque Config.procPatience (d : Nat) : Nat

/-- `PROC.signal` (R53, R99). -/
opaque Config.procSignal (p : ProcState) (k : Delivery) (v : Vec) : ProcState

/-- `PROC.reset` (R99, R127): the state taken at draw `d`. -/
opaque Config.procReset (d : Nat) (p : ProcState) : ProcState

/-- The Processor's state at construction (R25: a model must not assume any value). -/
opaque Config.procInit : ProcState

/-- The host's answer to an installed external read at draw `d` (R68, I6). -/
opaque Config.extAnswer (d : Nat) : Byte

/-- The firing rule of an enabled unit under a policy that is not specified (R95). -/
opaque Config.btdmpFire (u : Btdmp) : Btdmp × Bool

end Sys2Proof
end

