-- ==== Sys2Proof/Syntax.lean ====
section
/-! DEFINITION. The block's 31 operations (30_encoding R48, spec/opcode_table.json), one constructor a row.
The operands are those of R47; a slot index may be 3 and a route code may be `11`, as R47 lets them be written. -/

namespace Sys2Proof

/-- One transaction of the block. The comment of a constructor names its row's rule. -/
inductive Instr where
  /-- `RESET`, R127. -/
  | reset
  /-- `RUN n`, R103. -/
  | run (n : Word)
  /-- `HOST_MEM_READ a`, R106. -/
  | hostMemRead (a : Word)
  /-- `HOST_MEM_WRITE b, a`, R107. -/
  | hostMemWrite (b : Byte) (a : Word)
  /-- `SEND_DATA_IS_EMPTY i`, R79. -/
  | sendDataIsEmpty (i : BitVec 2)
  /-- `SEND_DATA i, x`, R80. -/
  | sendData (i : BitVec 2) (x : Half)
  /-- `RECV_DATA_IS_READY i`, R81. -/
  | recvDataIsReady (i : BitVec 2)
  /-- `RECV_DATA i`, R82. -/
  | recvData (i : BitVec 2)
  /-- `SET_RECV_DATA_HANDLER i, t`, R83. -/
  | setRecvDataHandler (i : BitVec 2) (t : Half)
  /-- `SET_SEMAPHORE x`, R84. -/
  | setSemaphore (x : Half)
  /-- `GET_SEMAPHORE`, R85. -/
  | getSemaphore
  /-- `SET_SEMAPHORE_HANDLER t`, R86. -/
  | setSemaphoreHandler (t : Half)
  /-- `SET_AHBM_CALLBACK t`, R70. -/
  | setAhbmCallback (t : Half)
  /-- `DSP_SEND_DATA i, x`, R87. -/
  | dspSendData (i : BitVec 2) (x : Half)
  /-- `DSP_RECV_DATA i`, R88. -/
  | dspRecvData (i : BitVec 2)
  /-- `DSP_IS_DATA_READY i`, R89. -/
  | dspIsDataReady (i : BitVec 2)
  /-- `DSP_OUT_IS_READY i`, R90. -/
  | dspOutIsReady (i : BitVec 2)
  /-- `DSP_SET_SEMAPHORE x`, R91. -/
  | dspSetSemaphore (x : Half)
  /-- `DSP_GET_SEMAPHORE`, R92. -/
  | dspGetSemaphore
  /-- `DMA_START dir, a, e, L`, R67. -/
  | dmaStart (dir : Dir) (a e len : Word)
  /-- `TIMER_CFG k, en, P`, R62. -/
  | timerCfg (k : UnitId) (en : Bool) (p : Word)
  /-- `BTDMP_CFG k, en, Q`, R97. -/
  | btdmpCfg (k : UnitId) (en : Bool) (q : Word)
  /-- `ICU_SET_ROUTE v, r`, R57. -/
  | icuSetRoute (v : Vec) (r : BitVec 2)
  /-- `DSP_MEM_READ a`, R108. -/
  | dspMemRead (a : Word)
  /-- `DSP_MEM_WRITE b, a`, R109. -/
  | dspMemWrite (b : Byte) (a : Word)
  /-- `TRIGGER_SINGLE v`, R56. -/
  | triggerSingle (v : Vec)
  /-- `PROC_STEP`, R100. -/
  | procStep
  /-- `TIMER_TICK k`, R63. -/
  | timerTick (k : UnitId)
  /-- `BTDMP_TICK k`, R98. -/
  | btdmpTick (k : UnitId)
  /-- `EXT_READ8 a`, R68. -/
  | extRead8 (a : Word)
  /-- `EXT_WRITE8 a, b`, R69. -/
  | extWrite8 (b : Byte) (a : Word)
  deriving DecidableEq, Repr

/-! The pseudo-operations of R52: names for operations above, with no encoding of their own. -/

/-- `TIMER_STOP k`. -/
def Pseudo.timerStop (k : UnitId) : Instr := .timerCfg k false 0

/-- `BTDMP_STOP k`. -/
def Pseudo.btdmpStop (k : UnitId) : Instr := .btdmpCfg k false 0

/-- `ICU_MASK v`. -/
def Pseudo.icuMask (v : Vec) : Instr := .icuSetRoute v 0b10

/-- `ICU_DIRECT v`. -/
def Pseudo.icuDirect (v : Vec) : Instr := .icuSetRoute v 0b00

/-- `ICU_VECTORED v`. -/
def Pseudo.icuVectored (v : Vec) : Instr := .icuSetRoute v 0b01

/-- `DMA_TO_EXT a, e, n`. -/
def Pseudo.dmaToExt (a e n : Word) : Instr := .dmaStart .toExt a e n

/-- `DMA_FROM_EXT a, e, n`. -/
def Pseudo.dmaFromExt (a e n : Word) : Instr := .dmaStart .fromExt a e n

end Sys2Proof
end

