-- ==== Sys2Proof/WellFormed.lean ====
section
/-! DEFINITION. Which operations have a legal word (30_encoding R49).
A slot index of 3 is well formed: it decodes, and the fault is the operation's own (R47). -/

namespace Sys2Proof

/-- R49: the route code is not `11`, and a stopped timer or Btdmp unit is given the period 0. -/
def Instr.wellFormed : Instr → Bool
  | .icuSetRoute _ r => r != 0b11
  | .timerCfg _ en p => en || p == 0
  | .btdmpCfg _ en q => en || q == 0
  | .reset | .run _ | .hostMemRead _ | .hostMemWrite _ _ | .sendDataIsEmpty _ | .sendData _ _ => true
  | .recvDataIsReady _ | .recvData _ | .setRecvDataHandler _ _ | .setSemaphore _ | .getSemaphore => true
  | .setSemaphoreHandler _ | .setAhbmCallback _ | .dspSendData _ _ | .dspRecvData _ => true
  | .dspIsDataReady _ | .dspOutIsReady _ | .dspSetSemaphore _ | .dspGetSemaphore => true
  | .dmaStart _ _ _ _ | .dspMemRead _ | .dspMemWrite _ _ | .triggerSingle _ | .procStep => true
  | .timerTick _ | .btdmpTick _ | .extRead8 _ | .extWrite8 _ _ => true

end Sys2Proof
end

