-- ==== Sys2Proof/Decode.lean ====
section
/-! DEFINITION. The transaction encoding (30_encoding R44 to R50): the decoder, total on any words and rejecting by name,
and after it the encoder. Words are abstract 32-bit values without a byte order (D36). -/

namespace Sys2Proof

/-- The header's fields (R45). -/
structure Header where
  op : BitVec 8
  i : BitVec 2
  k : BitVec 1
  e : BitVec 1
  v : BitVec 4
  imm : BitVec 16
  deriving DecidableEq, Repr

/-- The fields of a header word (R45). -/
def Header.ofWord (w : Word) : Header where
  op := w.extractLsb' 24 8
  i := w.extractLsb' 22 2
  k := w.extractLsb' 21 1
  e := w.extractLsb' 20 1
  v := w.extractLsb' 16 4
  imm := w.extractLsb' 0 16

/-- Why a word is illegal (R49); each of these is `Fault(Encoding)` when the word is executed. -/
inductive DecodeError where
  /-- `OP` is not in the table of R48. -/
  | undefinedOp
  /-- A field the operation does not use is nonzero. -/
  | unusedField
  /-- `W[15:8]` is nonzero where the operand is a byte. -/
  | byteHigh
  /-- `W[15:2]` is nonzero where the operand is a route code. -/
  | routeHigh
  /-- The route code is `11`. -/
  | routeReserved
  /-- `TIMER_CFG` or `BTDMP_CFG` with `en = 0` and a nonzero period. -/
  | stoppedPeriod
  deriving DecidableEq, Repr

/-- The unit that field K names (R47). -/
def unitOf (k : BitVec 1) : UnitId := if k = 0 then .u0 else .u1

/-- The direction that bit E names in `DMA_START` (R47). -/
def dirOf (e : BitVec 1) : Dir := if e = 0 then .toExt else .fromExt

/-- The enable that bit E gives (R47). -/
def enableOf (e : BitVec 1) : Bool := e = 1

/-- The instruction, if the named check holds; the check's name, if it does not. -/
def checked (ok : Bool) (err : DecodeError) (i : Instr) : Except DecodeError Instr :=
  if ok then .ok i else .error err

/-- A word none of whose fields is an operand. -/
def decodePlain (h : Header) (i : Instr) : Except DecodeError Instr :=
  checked (h.i == 0 && h.k == 0 && h.e == 0 && h.v == 0 && h.imm == 0) .unusedField i

/-- A word whose one operand is the slot index. -/
def decodeSlot (h : Header) (i : BitVec 2 → Instr) : Except DecodeError Instr :=
  checked (h.k == 0 && h.e == 0 && h.v == 0 && h.imm == 0) .unusedField (i h.i)

/-- A word with a slot index and a 16-bit value or token. -/
def decodeSlotHalf (h : Header) (i : BitVec 2 → Half → Instr) : Except DecodeError Instr :=
  checked (h.k == 0 && h.e == 0 && h.v == 0) .unusedField (i h.i h.imm)

/-- A word with a 16-bit value or token. -/
def decodeHalf (h : Header) (i : Half → Instr) : Except DecodeError Instr :=
  checked (h.i == 0 && h.k == 0 && h.e == 0 && h.v == 0) .unusedField (i h.imm)

/-- A word with a byte in `IMM[7:0]`. -/
def decodeByte (h : Header) (i : Byte → Instr) : Except DecodeError Instr :=
  if h.i == 0 && h.k == 0 && h.e == 0 && h.v == 0 then
    checked (h.imm.extractLsb' 8 8 == 0) .byteHigh (i (h.imm.extractLsb' 0 8))
  else .error .unusedField

/-- A word with a unit number and nothing else. -/
def decodeUnit (h : Header) (i : UnitId → Instr) : Except DecodeError Instr :=
  checked (h.i == 0 && h.e == 0 && h.v == 0 && h.imm == 0) .unusedField (i (unitOf h.k))

/-- A configuration word: a unit, an enable bit and the period in X1. -/
def decodeCfg (h : Header) (x1 : Word) (i : UnitId → Bool → Word → Instr) : Except DecodeError Instr :=
  if h.i == 0 && h.v == 0 && h.imm == 0 then
    checked (enableOf h.e || x1 == 0) .stoppedPeriod (i (unitOf h.k) (enableOf h.e) x1)
  else .error .unusedField

/-- A DMA word: the direction bit and nothing else in the header. -/
def decodeDir (h : Header) (i : Dir → Instr) : Except DecodeError Instr :=
  checked (h.i == 0 && h.k == 0 && h.v == 0 && h.imm == 0) .unusedField (i (dirOf h.e))

/-- A word with a vector and nothing else. -/
def decodeVec (h : Header) (i : Vec → Instr) : Except DecodeError Instr :=
  checked (h.i == 0 && h.k == 0 && h.e == 0 && h.imm == 0) .unusedField (i h.v)

/-- A word with a vector and a route code in `IMM[1:0]`. -/
def decodeRoute (h : Header) (i : Vec → BitVec 2 → Instr) : Except DecodeError Instr :=
  if h.i == 0 && h.k == 0 && h.e == 0 then
    if h.imm.extractLsb' 2 14 == 0 then
      checked (h.imm.extractLsb' 0 2 != 0b11) .routeReserved (i h.v (h.imm.extractLsb' 0 2))
    else .error .routeHigh
  else .error .unusedField

/-- Decoding a header with its extension lanes, by the operation map of R48. -/
def decodeHeader (h : Header) (x1 x2 x3 : Word) : Except DecodeError Instr :=
  match h.op.toNat with
  | 0x01 => decodePlain h .reset
  | 0x02 => decodePlain h (.run x1)
  | 0x03 => decodePlain h (.hostMemRead x1)
  | 0x04 => decodeByte h (.hostMemWrite · x1)
  | 0x05 => decodeSlot h .sendDataIsEmpty
  | 0x06 => decodeSlotHalf h .sendData
  | 0x07 => decodeSlot h .recvDataIsReady
  | 0x08 => decodeSlot h .recvData
  | 0x09 => decodeSlotHalf h .setRecvDataHandler
  | 0x0A => decodeHalf h .setSemaphore
  | 0x0B => decodePlain h .getSemaphore
  | 0x0C => decodeHalf h .setSemaphoreHandler
  | 0x0D => decodeHalf h .setAhbmCallback
  | 0x20 => decodeSlotHalf h .dspSendData
  | 0x21 => decodeSlot h .dspRecvData
  | 0x22 => decodeSlot h .dspIsDataReady
  | 0x23 => decodeSlot h .dspOutIsReady
  | 0x24 => decodeHalf h .dspSetSemaphore
  | 0x25 => decodePlain h .dspGetSemaphore
  | 0x26 => decodeDir h (.dmaStart · x1 x2 x3)
  | 0x27 => decodeCfg h x1 .timerCfg
  | 0x28 => decodeCfg h x1 .btdmpCfg
  | 0x29 => decodeRoute h .icuSetRoute
  | 0x2A => decodePlain h (.dspMemRead x1)
  | 0x2B => decodeByte h (.dspMemWrite · x1)
  | 0x40 => decodeVec h .triggerSingle
  | 0x41 => decodePlain h .procStep
  | 0x42 => decodeUnit h .timerTick
  | 0x43 => decodeUnit h .btdmpTick
  | 0x44 => decodePlain h (.extRead8 x1)
  | 0x45 => decodeByte h (.extWrite8 · x1)
  | _ => .error .undefinedOp

/-- The decoder: total, and it rejects by name (R44 to R49). -/
def decode (t : Words) : Except DecodeError Instr :=
  decodeHeader (Header.ofWord t.w) t.x1 t.x2 t.x3

/-- How many extension words follow a header, by its `OP` alone (R46): an undefined `OP` has none. -/
def extCount (w : Word) : Nat :=
  match (Header.ofWord w).op.toNat with
  | 0x02 | 0x03 | 0x04 | 0x27 | 0x28 | 0x2A | 0x2B | 0x44 | 0x45 => 1
  | 0x26 => 3
  | _ => 0

/-- One transaction cut from the front of a flat stream of words, with the words left over (R46);
nothing, if the stream ends inside it. -/
def cut : List Word → Option (Words × List Word)
  | [] => none
  | w :: rest =>
    match extCount w, rest with
    | 0, rest => some (⟨w, 0, 0, 0⟩, rest)
    | 1, x1 :: rest => some (⟨w, x1, 0, 0⟩, rest)
    | 3, x1 :: x2 :: x3 :: rest => some (⟨w, x1, x2, x3⟩, rest)
    | _, _ => none

/-- The agent that may issue an operation (R48). -/
def Instr.agent : Instr → Agent
  | .reset | .run _ | .hostMemRead _ | .hostMemWrite _ _ | .sendDataIsEmpty _ | .sendData _ _ => .host
  | .recvDataIsReady _ | .recvData _ | .setRecvDataHandler _ _ | .setSemaphore _ | .getSemaphore => .host
  | .setSemaphoreHandler _ | .setAhbmCallback _ => .host
  | .dspSendData _ _ | .dspRecvData _ | .dspIsDataReady _ | .dspOutIsReady _ | .dspSetSemaphore _ => .processor
  | .dspGetSemaphore | .dmaStart _ _ _ _ | .timerCfg _ _ _ | .btdmpCfg _ _ _ | .icuSetRoute _ _ => .processor
  | .dspMemRead _ | .dspMemWrite _ _ => .processor
  | .triggerSingle _ | .procStep | .timerTick _ | .btdmpTick _ | .extRead8 _ | .extWrite8 _ _ => .engine

/-! The encoder, from the same tables. -/

/-- The header word of its fields (R45). -/
def Header.toWord (h : Header) : Word :=
  h.op ++ h.i ++ h.k ++ h.e ++ h.v ++ h.imm

/-- Field K of a unit. -/
def UnitId.bit : UnitId → BitVec 1
  | .u0 => 0
  | .u1 => 1

/-- Bit E of a direction. -/
def Dir.bit : Dir → BitVec 1
  | .toExt => 0
  | .fromExt => 1

/-- Bit E of an enable. -/
def enableBit (en : Bool) : BitVec 1 := if en then 1 else 0

/-- The header of an operation (R45, R47, R48). -/
def Instr.header : Instr → Header
  | .reset => ⟨0x01, 0, 0, 0, 0, 0⟩
  | .run _ => ⟨0x02, 0, 0, 0, 0, 0⟩
  | .hostMemRead _ => ⟨0x03, 0, 0, 0, 0, 0⟩
  | .hostMemWrite b _ => ⟨0x04, 0, 0, 0, 0, b.setWidth 16⟩
  | .sendDataIsEmpty i => ⟨0x05, i, 0, 0, 0, 0⟩
  | .sendData i x => ⟨0x06, i, 0, 0, 0, x⟩
  | .recvDataIsReady i => ⟨0x07, i, 0, 0, 0, 0⟩
  | .recvData i => ⟨0x08, i, 0, 0, 0, 0⟩
  | .setRecvDataHandler i t => ⟨0x09, i, 0, 0, 0, t⟩
  | .setSemaphore x => ⟨0x0A, 0, 0, 0, 0, x⟩
  | .getSemaphore => ⟨0x0B, 0, 0, 0, 0, 0⟩
  | .setSemaphoreHandler t => ⟨0x0C, 0, 0, 0, 0, t⟩
  | .setAhbmCallback t => ⟨0x0D, 0, 0, 0, 0, t⟩
  | .dspSendData i x => ⟨0x20, i, 0, 0, 0, x⟩
  | .dspRecvData i => ⟨0x21, i, 0, 0, 0, 0⟩
  | .dspIsDataReady i => ⟨0x22, i, 0, 0, 0, 0⟩
  | .dspOutIsReady i => ⟨0x23, i, 0, 0, 0, 0⟩
  | .dspSetSemaphore x => ⟨0x24, 0, 0, 0, 0, x⟩
  | .dspGetSemaphore => ⟨0x25, 0, 0, 0, 0, 0⟩
  | .dmaStart dir _ _ _ => ⟨0x26, 0, 0, dir.bit, 0, 0⟩
  | .timerCfg k en _ => ⟨0x27, 0, k.bit, enableBit en, 0, 0⟩
  | .btdmpCfg k en _ => ⟨0x28, 0, k.bit, enableBit en, 0, 0⟩
  | .icuSetRoute v r => ⟨0x29, 0, 0, 0, v, r.setWidth 16⟩
  | .dspMemRead _ => ⟨0x2A, 0, 0, 0, 0, 0⟩
  | .dspMemWrite b _ => ⟨0x2B, 0, 0, 0, 0, b.setWidth 16⟩
  | .triggerSingle v => ⟨0x40, 0, 0, 0, v, 0⟩
  | .procStep => ⟨0x41, 0, 0, 0, 0, 0⟩
  | .timerTick k => ⟨0x42, 0, k.bit, 0, 0, 0⟩
  | .btdmpTick k => ⟨0x43, 0, k.bit, 0, 0, 0⟩
  | .extRead8 _ => ⟨0x44, 0, 0, 0, 0, 0⟩
  | .extWrite8 b _ => ⟨0x45, 0, 0, 0, 0, b.setWidth 16⟩

/-- The extension words of an operation, in order (R46). -/
def Instr.ext : Instr → List Word
  | .run n => [n]
  | .hostMemRead a | .hostMemWrite _ a | .dspMemRead a | .dspMemWrite _ a | .extRead8 a | .extWrite8 _ a => [a]
  | .timerCfg _ _ p | .btdmpCfg _ _ p => [p]
  | .dmaStart _ a e len => [a, e, len]
  | .reset | .sendDataIsEmpty _ | .sendData _ _ | .recvDataIsReady _ | .recvData _ => []
  | .setRecvDataHandler _ _ | .setSemaphore _ | .getSemaphore | .setSemaphoreHandler _ => []
  | .setAhbmCallback _ | .dspSendData _ _ | .dspRecvData _ | .dspIsDataReady _ | .dspOutIsReady _ => []
  | .dspSetSemaphore _ | .dspGetSemaphore | .icuSetRoute _ _ | .triggerSingle _ | .procStep => []
  | .timerTick _ | .btdmpTick _ => []

/-- The words of an operation as they stand in a flat stream: the header and its extension words. -/
def encode (i : Instr) : List Word := i.header.toWord :: i.ext

/-- The words of an operation at a port, an unused lane being zero. -/
def encodeCall (i : Instr) : Words :=
  ⟨i.header.toWord, i.ext.getD 0 0, i.ext.getD 1 0, i.ext.getD 2 0⟩

/-! The table's numbering of a transaction's bits. -/

/-- The port's lanes from one number: the header in bits 31 to 0, X1 in 63 to 32, X2 in 95 to 64, X3 in 127 to 96. -/
def Words.ofNat (n : Nat) : Words where
  w := BitVec.ofNat 32 n
  x1 := BitVec.ofNat 32 (n / 2 ^ 32)
  x2 := BitVec.ofNat 32 (n / 2 ^ 64)
  x3 := BitVec.ofNat 32 (n / 2 ^ 96)

/-- The lanes of a table row's word: its low `nbits` bits, every bit above them zero. -/
def tableWords (nbits w : Nat) : Words := Words.ofNat (w % 2 ^ nbits)

/-- What the decoder reads from a row's word, numbered as spec/opcode_table.json numbers it. -/
def decodeTableWord (nbits w : Nat) : Option Instr :=
  match decode (tableWords nbits w) with
  | .ok i => some i
  | .error _ => none

end Sys2Proof
end

