-- ==== Sys2Proof/Machine/State.lean ====
section
/-! DEFINITION. The block's state record (10_state R14 to R30) as plain data, and its construction state. -/

namespace Sys2Proof.Machine

/-- One thing for each of the two units of a kind (R7: `N_TIMERS = N_BTDMP = 2`). -/
structure PerUnit (α : Type) where
  u0 : α
  u1 : α
  deriving DecidableEq, Repr

/-- One thing for each Apbp data slot (R7: `N_APBP_SLOTS = 3`). -/
structure PerSlot (α : Type) where
  s0 : α
  s1 : α
  s2 : α
  deriving DecidableEq, Repr

/-- SharedMemory (R29): the bytes that are not 0, by rising address. -/
abbrev Memory := List Host.Cell

/-- The ICU (R17, R18): a route for each vector, and whether each is being triggered. -/
structure Icu where
  route : Vector Route 16
  active : Vector Bool 16
  deriving DecidableEq, Repr

/-- A timer (R19). -/
structure Timer where
  running : Bool
  period : Word
  counter : Word
  deriving DecidableEq, Repr

/-- An Apbp instance (R21, R22). -/
structure Apbp where
  data : PerSlot Half
  ready : PerSlot Bool
  sem : Half
  semReady : Bool
  dataH : PerSlot Handler
  semH : Handler
  deriving DecidableEq, Repr

/-- The configuration of the last DMA transfer (R23). -/
structure Dma where
  dir : Dir
  shm : Word
  ext : Word
  len : Word
  deriving DecidableEq, Repr

/-- The Ahbm bridge (R24): the host's callback pair, if installed. -/
structure Ahbm where
  cb : Option Half
  deriving DecidableEq, Repr

/-- The engine's re-entrancy flags (R26). -/
structure Eng where
  inRun : Bool
  inHandler : Bool
  deriving DecidableEq, Repr

/-- The model's own fields: what comes from outside the block, as plain data (log 1, 3, 4, 8). -/
structure Ports where
  /-- The host's calls not yet taken, oldest first. No other agent issues a top-level transaction (R119). -/
  calls : List Words
  /-- The Processor's moves already drawn, oldest first; `none` says that `PROC.next` gives no move.
  Behind it stands `Config.procNext`. -/
  script : List (Option ProcMove)
  /-- The bytes that `read_external` is about to answer, oldest first. Behind it stands `Config.extAnswer`. -/
  answers : List Byte
  /-- How many free values have been drawn. -/
  draws : Nat
  /-- The byte that `exec` of `EXT_READ8`, which has no caller to return it to, gave last (R11, log 8). -/
  extReply : Option Byte
  deriving DecidableEq, Repr

/-- The state of the block (R14), the open parameters of R7, and the model's own ports. -/
structure State where
  cfg : Params
  mem : Memory
  icu : Icu
  timer : PerUnit Timer
  btdmp : PerUnit Btdmp
  c2d : Apbp
  d2c : Apbp
  dma : Dma
  ahbm : Ahbm
  proc : ProcState
  eng : Eng
  steps : Nat
  hist : List Event
  fault : Option FaultCode
  io : Ports
  deriving DecidableEq, Repr

/-- Why a step of the model stops without a next state. A fault of the block (R110) is not among them:
raising it is a next state (R111). -/
inductive Fault where
  /-- Raised by `PROC_STEP`, as part of a `RUN`, when `PROC.next` gives no move: the step is stuck, with no
  transition (R100, I12). Safe: nothing is claimed of what follows. -/
  | processorNoMove
  /-- Raised by `PROC_STEP`, as part of a `RUN`, when the step makes moves without end: a hang of the run
  (R100, I11). Safe: nothing is claimed of what follows. -/
  | processorHang
  deriving DecidableEq, Repr

/-- Why the model gives an instruction no meaning. -/
inductive Refusal where
  /-- Raised by `exec`'s arm of an instruction that has no meaning yet, by its mnemonic. Safe: the run ends. -/
  | notModelled (mnemonic : String)
  deriving DecidableEq, Repr

/-! Construction and reset values, field by field. -/

/-- A timer after reset (R19). -/
def Timer.zero : Timer := ⟨false, 0, 0⟩

/-- A Btdmp unit after reset (R20). -/
def btdmpZero (aux : BtdmpAux) : Btdmp := ⟨false, 0, 0, aux⟩

/-- An Apbp instance after reset, with the handlers it is wired to (R21, R22). -/
def Apbp.zero (dataH : PerSlot Handler) (semH : Handler) : Apbp :=
  ⟨⟨0, 0, 0⟩, ⟨false, false, false⟩, 0, false, dataH, semH⟩

/-- The DMA configuration after reset (R23). -/
def Dma.zero : Dma := ⟨.toExt, 0, 0, 0⟩

/-- No vector is being triggered (R18). -/
def Icu.idle : Vector Bool 16 := Vector.replicate 16 false

/-- The construction state (R30), for any value of the open parameters. -/
def State.construct (c : Params) : State where
  cfg := c
  mem := []
  icu := ⟨c.icuRouteReset, Icu.idle⟩
  timer := ⟨Timer.zero, Timer.zero⟩
  btdmp := ⟨btdmpZero c.btdmpAuxReset, btdmpZero c.btdmpAuxReset⟩
  c2d := Apbp.zero ⟨.icu Config.vecApbp, .icu Config.vecApbp, .icu Config.vecApbp⟩ (.icu Config.vecApbp)
  d2c := Apbp.zero ⟨.none, .none, .none⟩ .none
  dma := Dma.zero
  ahbm := ⟨none⟩
  proc := Config.procInit
  eng := ⟨false, false⟩
  steps := 0
  hist := []
  fault := none
  io := ⟨[], [], [], 0, none⟩

/-- The machine right after reset: the construction state with the spec's test values for the open parameters
(DESIGN CHOICE, log 5). The block has no reset pin: its `RESET` is a transaction (R127). -/
def State.reset : State := State.construct Params.reference

end Sys2Proof.Machine
end

