-- ==== Sys2Proof/Machine/Ops.lean ====
section
/-! DEFINITION. The named operations over the state: the primitives of 00_scope R11, memory, free values, raising a fault
(60_exceptions R111), the delivery of an interrupt (40_icu R53, R56, R116) and the call of a handler (R55). -/

namespace Sys2Proof.Machine

/-! Tables indexed by a vector, a unit or a slot. -/

/-- The entry of vector `v`. -/
def vecGet {α : Type} (t : Vector α 16) (v : Vec) : α := t[v.toNat]'v.isLt

/-- The table with vector `v`'s entry replaced. -/
def vecSet {α : Type} (t : Vector α 16) (v : Vec) (a : α) : Vector α 16 := t.set v.toNat a v.isLt

/-- Unit `k`'s entry. -/
def PerUnit.get {α : Type} (p : PerUnit α) : UnitId → α
  | .u0 => p.u0
  | .u1 => p.u1

/-- The pair with unit `k`'s entry replaced. -/
def PerUnit.set {α : Type} (p : PerUnit α) (k : UnitId) (a : α) : PerUnit α :=
  match k with
  | .u0 => { p with u0 := a }
  | .u1 => { p with u1 := a }

/-- Slot `i`'s entry. -/
def PerSlot.get {α : Type} (p : PerSlot α) : Slot → α
  | .s0 => p.s0
  | .s1 => p.s1
  | .s2 => p.s2

/-- The triple with slot `i`'s entry replaced. -/
def PerSlot.set {α : Type} (p : PerSlot α) (i : Slot) (a : α) : PerSlot α :=
  match i with
  | .s0 => { p with s0 := a }
  | .s1 => { p with s1 := a }
  | .s2 => { p with s2 := a }

/-! Updates of the state, one a field. -/

/-- `s.mem <- m`. -/
def State.setMem (s : State) (m : Memory) : State := { s with mem := m }

/-- `s.icu.route[v] <- r`. -/
def State.setRoute (s : State) (v : Vec) (r : Route) : State :=
  { s with icu := { s.icu with route := vecSet s.icu.route v r } }

/-- `v` enters or leaves `s.icu.active`. -/
def State.setActive (s : State) (v : Vec) (b : Bool) : State :=
  { s with icu := { s.icu with active := vecSet s.icu.active v b } }

/-- `s.timer[k] <- t`. -/
def State.setTimer (s : State) (k : UnitId) (t : Timer) : State := { s with timer := s.timer.set k t }

/-- `s.btdmp[k] <- u`. -/
def State.setBtdmp (s : State) (k : UnitId) (u : Btdmp) : State := { s with btdmp := s.btdmp.set k u }

/-- `s.apbp[c2d] <- a`. -/
def State.setC2d (s : State) (a : Apbp) : State := { s with c2d := a }

/-- `s.apbp[d2c] <- a`. -/
def State.setD2c (s : State) (a : Apbp) : State := { s with d2c := a }

/-- `s.dma <- d`. -/
def State.setDma (s : State) (d : Dma) : State := { s with dma := d }

/-- `s.ahbm.cb <- some t`. -/
def State.setAhbm (s : State) (t : Half) : State := { s with ahbm := ⟨some t⟩ }

/-- `s.proc <- p`. -/
def State.setProc (s : State) (p : ProcState) : State := { s with proc := p }

/-- `s.eng.in_run <- b`. -/
def State.setInRun (s : State) (b : Bool) : State := { s with eng := { s.eng with inRun := b } }

/-- `s.eng.in_handler <- b`. -/
def State.setInHandler (s : State) (b : Bool) : State := { s with eng := { s.eng with inHandler := b } }

/-- `s.steps <- n`. -/
def State.setSteps (s : State) (n : Nat) : State := { s with steps := n }

/-- `emit(e)`: the history gains one event at its end (R11, R27). -/
def State.emit (s : State) (e : Event) : State := { s with hist := s.hist ++ [e] }

/-- The model's ports, replaced. -/
def State.setIo (s : State) (p : Ports) : State := { s with io := p }

/-! Raising a fault of the block. -/

/-- `raise Fault(code)`, parts 1, 2 and 4 (R111): the sticky field takes the first code, the event is emitted, and what
was done stays done. Part 3, the end of every enclosing transaction, is `Eff.raised`. -/
def State.raise (s : State) (c : FaultCode) : State :=
  { s with
    fault := match s.fault with
      | none => some c
      | some d => some d
    hist := s.hist ++ [.faultEv c] }

/-- How a piece of a transaction ends: with a value; in a raised fault, which ends the transactions around it
(R111); or stuck. -/
inductive Eff (α : Type) where
  | done (a : α) (s : State)
  | raised (s : State)
  | stopped (f : Fault)
  deriving DecidableEq, Repr

/-- One piece after another: a raised fault and a stuck state end both. -/
def Eff.bind {α β : Type} (e : Eff α) (k : α → State → Eff β) : Eff β :=
  match e with
  | .done a s => k a s
  | .raised s => .raised s
  | .stopped f => .stopped f

/-- The outcome of a whole transaction: a raised fault is a next state (R111). -/
def Eff.outcome (e : Eff Unit) : Host.Outcome State Fault Refusal :=
  match e with
  | .done _ s => .next s
  | .raised s => .next s
  | .stopped f => .fault f

/-- A transaction: on a faulted block it has no effect (R111), otherwise it is its rule's body. -/
def transact (body : State → Eff Unit) (s : State) : Host.Outcome State Fault Refusal :=
  match s.fault with
  | some _ => .next s
  | none => (body s).outcome

/-- `return v` in a Host or Processor transaction: the value goes to the agent, and `Result` is emitted (R11). -/
def giveResult (who : Agent) (x : Nat) (s : State) : Eff Unit := .done () (s.emit (.result who x))

/-- A Bool is returned as 1 for true and 0 for false (R11). -/
def boolResult (b : Bool) : Nat := if b then 1 else 0

/-! SharedMemory (R11, R29, R34, R36). -/

/-- What an unlisted address of SharedMemory reads as: 0, the value R29 gives every byte at construction. -/
def Memory.unlisted : Byte := 0

/-- The byte at address `a`. -/
def Memory.get : Memory → Nat → Byte
  | [], _ => Memory.unlisted
  | (a', b) :: m, a => if a = a' then b else Memory.get m a

/-- The cell of a byte in front of the cells above it: none, if the byte is what an unlisted address reads as. -/
def Memory.cons (a : Nat) (b : Byte) (m : Memory) : Memory := if b = Memory.unlisted then m else (a, b) :: m

/-- The memory with byte `b` at address `a`, in the canonical form. -/
def Memory.put : Memory → Nat → Byte → Memory
  | [], a, b => Memory.cons a b []
  | (a', b') :: m, a, b =>
    if a < a' then Memory.cons a b ((a', b') :: m)
    else if a = a' then Memory.cons a b m
    else (a', b') :: Memory.put m a b

/-- Every address of the memory is above `a`. -/
def Memory.above (a : Nat) : Memory → Bool
  | [] => true
  | (a', _) :: _ => a < a'

/-- The canonical form: addresses strictly rising, no byte listed that an unlisted address reads as. -/
def Memory.wf : Memory → Bool
  | [] => true
  | (a, b) :: m => b != Memory.unlisted && Memory.above a m && Memory.wf m

/-- `MemRead(a, 1)` (R11). -/
def memRead (a : Nat) (s : State) : Eff Byte :=
  if a < s.cfg.shmemSize then .done (s.mem.get a) s else .raised (s.raise .memRange)

/-- `MemWrite(a, 1, b)` (R11). -/
def memWrite (a : Nat) (b : Byte) (s : State) : Eff Unit :=
  if a < s.cfg.shmemSize then .done () (s.setMem (s.mem.put a b)) else .raised (s.raise .memRange)

/-! Free values. -/

/-- The host's answer to an installed external read (R68): the next byte of `io.answers`, and past it a free byte. -/
def drawByte (s : State) : Byte × State :=
  match s.io.answers with
  | b :: rest => (b, s.setIo { s.io with answers := rest })
  | [] => (Config.extAnswer s.io.draws, s.setIo { s.io with draws := s.io.draws + 1 })

/-- The Processor's next move (R99, R100): the next one of `io.script`, and past it `PROC.next`'s choice. -/
def drawMove (s : State) : Option ProcMove × State :=
  match s.io.script with
  | m :: rest => (m, s.setIo { s.io with script := rest })
  | [] => (Config.procNext s.io.draws s.proc s.hist, s.setIo { s.io with draws := s.io.draws + 1 })

/-- The Processor's state after `Processor.Reset()` (R99, R127). -/
def drawProcReset (s : State) : State :=
  (s.setProc (Config.procReset s.io.draws s.proc)).setIo { s.io with draws := s.io.draws + 1 }

/-! Interrupts. -/

/-- A delivery call into the Processor (R53, R56, R116): one event, one `PROC.signal`, and nothing else. -/
def deliver (k : Delivery) (v : Vec) (s : State) : State :=
  let saved := s.eng.inHandler
  let s := s.setInHandler true
  let s := s.emit (.deliver k v)
  let s := s.setProc (Config.procSignal s.proc k v)
  s.setInHandler saved

/-- The ICU's choice for a vector, by its route (R56). -/
def routed (v : Vec) (s : State) : State :=
  match vecGet s.icu.route v with
  | .direct => deliver .direct v s
  | .vectored => deliver .vectored v s
  | .masked => s.emit (.suppressed v)

/-- `Trigger(v)`, the ICU's `TriggerSingle(v)` (R56). -/
def trigger (v : Vec) (s : State) : Eff Unit :=
  if vecGet s.icu.active v then .raised (s.raise .reentrantTrigger)
  else .done () ((routed v ((s.emit (.raise v)).setActive v true)).setActive v false)

/-- A call of a host callback (R55). -/
def callHost (t : Half) (src : Source) (s : State) : State :=
  let saved := s.eng.inHandler
  let s := s.setInHandler true
  let s := s.emit (.hostCb t src)
  s.setInHandler saved

/-- `CallHandler(h, src)` (R55). -/
def callHandler (h : Handler) (src : Source) (s : State) : Eff Unit :=
  match h with
  | .icu v => trigger v s
  | .host t => .done () (callHost t src s)
  | .none => .done () s

end Sys2Proof.Machine
end

