-- ==== Sys2Proof/Machine/Operands.lean ====
section
/-! DEFINITION. The operand forms (30_encoding R47, 45_engine R105): what an operand of an operation names. -/

namespace Sys2Proof.Machine

/-- The Apbp slot of an index; index 3 names none (R47). -/
def slotOf (i : BitVec 2) : Option Slot :=
  match i.toNat with
  | 0 => some .s0
  | 1 => some .s1
  | 2 => some .s2
  | _ => none

/-- An operation on slot `i`: `if i > 2 then raise Fault(Index)`, before anything is written (R73 to R75, R83). -/
def withSlot {α : Type} (i : BitVec 2) (body : Slot → State → Eff α) (s : State) : Eff α :=
  match slotOf i with
  | some k => body k s
  | none => .raised (s.raise .index)

/-- The route of a route code; `11` has none (R47, R57). -/
def routeOf (r : BitVec 2) : Option Route :=
  match r.toNat with
  | 0 => some .direct
  | 1 => some .vectored
  | 2 => some .masked
  | _ => none

/-- The effective address of a memory operation: absolute, the extension word itself (R105). -/
def effAddr (x1 : Word) : Nat := x1.toNat

/-- The external address of byte number `i` of a run from `e`, summed without wrap (R67, R105): the range check of
`DMA_START` keeps the sum below `Config.extEnd`. -/
def extAddr (e : Word) (i : Nat) : Word := BitVec.ofNat 32 (e.toNat + i)

/-- The SharedMemory run of a transfer is inside SharedMemory (R67). -/
def shmRunFits (a len : Word) (s : State) : Bool := a.toNat + len.toNat ≤ s.cfg.shmemSize

/-- The external run of a transfer is inside the external space (R67). -/
def extRunFits (e len : Word) : Bool := e.toNat + len.toNat ≤ Config.extEnd

end Sys2Proof.Machine
end

