-- ==== Sys2Proof/Machine/Flags.lean ====
section
/-! DEFINITION. The block's flags and the register written with each: the Apbp ready flags (R21), a timer's `running` (R19)
and a Btdmp unit's `enabled` (R20). The block has no condition codes (R10). -/

namespace Sys2Proof.Machine

/-- A data slot is written: its value, and its ready flag set (R73). A full slot is overwritten (R78). -/
def Apbp.fill (p : Apbp) (i : Slot) (x : Half) : Apbp :=
  { p with data := p.data.set i x, ready := p.ready.set i true }

/-- A data slot is consumed: its ready flag is cleared and its value stays (R75). -/
def Apbp.consume (p : Apbp) (i : Slot) : Apbp := { p with ready := p.ready.set i false }

/-- The semaphore is written (R76). -/
def Apbp.fillSem (p : Apbp) (x : Half) : Apbp := { p with sem := x, semReady := true }

/-- The semaphore is consumed (R77). -/
def Apbp.consumeSem (p : Apbp) : Apbp := { p with semReady := false }

/-- A timer is enabled, or restarted, with a period (R62). -/
def Timer.start (p : Word) : Timer := ⟨true, p, p⟩

/-- A timer is stopped: period and counter stay (R62). -/
def Timer.stop (t : Timer) : Timer := { t with running := false }

/-- A Btdmp unit is enabled, or restarted, with a period; `aux` stays (R97). -/
def btdmpStart (u : Btdmp) (q : Word) : Btdmp := { u with enabled := true, period := q, counter := q }

/-- A Btdmp unit is stopped: period, counter and `aux` stay (R97). -/
def btdmpStop (u : Btdmp) : Btdmp := { u with enabled := false }

end Sys2Proof.Machine
end

