-- ==== Sys2Proof/Machine/ApbpPorts.lean ====
section
/-! DEFINITION. The Apbp channels (43_apbp): the instance primitives R73 to R77, the host's transactions R79 to R86 and the
Processor's R87 to R92. The host sends on `c2d` and receives on `d2c`; the Processor does the reverse (R72). -/

namespace Sys2Proof.Machine

/-- The two Apbp instances (R21, R72). -/
inductive Chan where
  | c2d
  | d2c
  deriving DecidableEq, Repr

/-- `s.apbp[c]`. -/
def State.apbp (s : State) : Chan → Apbp
  | .c2d => s.c2d
  | .d2c => s.d2c

/-- `s.apbp[c] <- p`. -/
def State.setApbp (s : State) (c : Chan) (p : Apbp) : State :=
  match c with
  | .c2d => s.setC2d p
  | .d2c => s.setD2c p

/-- `ApbpSend(c, i, x)` (R73). -/
def apbpSend (c : Chan) (i : BitVec 2) (x : Half) (s : State) : Eff Unit :=
  withSlot i (fun k s =>
    let s := s.setApbp c ((s.apbp c).fill k x)
    callHandler ((s.apbp c).dataH.get k) (.data k) s) s

/-- `ApbpIsReady(c, i)` (R74). -/
def apbpIsReady (c : Chan) (i : BitVec 2) (s : State) : Eff Bool :=
  withSlot i (fun k s => .done ((s.apbp c).ready.get k) s) s

/-- `ApbpRecv(c, i)` (R75). -/
def apbpRecv (c : Chan) (i : BitVec 2) (s : State) : Eff Half :=
  withSlot i (fun k s => .done ((s.apbp c).data.get k) (s.setApbp c ((s.apbp c).consume k))) s

/-- `ApbpSetSem(c, x)` (R76). -/
def apbpSetSem (c : Chan) (x : Half) (s : State) : Eff Unit :=
  let s := s.setApbp c ((s.apbp c).fillSem x)
  callHandler (s.apbp c).semH .sem s

/-- `ApbpGetSem(c)` (R77). -/
def apbpGetSem (c : Chan) (s : State) : Eff Half :=
  .done (s.apbp c).sem (s.setApbp c (s.apbp c).consumeSem)

/-! Host transactions. -/

/-- `SEND_DATA_IS_EMPTY i` (R79). -/
def execSendDataIsEmpty (i : BitVec 2) (s : State) : Host.Outcome State Fault Refusal :=
  transact (fun s => (apbpIsReady .c2d i s).bind fun b s => giveResult .host (boolResult !b) s) s

/-- `SEND_DATA i, x` (R80). -/
def execSendData (i : BitVec 2) (x : Half) (s : State) : Host.Outcome State Fault Refusal :=
  transact (apbpSend .c2d i x) s

/-- `RECV_DATA_IS_READY i` (R81). -/
def execRecvDataIsReady (i : BitVec 2) (s : State) : Host.Outcome State Fault Refusal :=
  transact (fun s => (apbpIsReady .d2c i s).bind fun b s => giveResult .host (boolResult b) s) s

/-- `RECV_DATA i` (R82). -/
def execRecvData (i : BitVec 2) (s : State) : Host.Outcome State Fault Refusal :=
  transact (fun s => (apbpRecv .d2c i s).bind fun x s => giveResult .host x.toNat s) s

/-- `SET_RECV_DATA_HANDLER i, t` (R83). -/
def execSetRecvDataHandler (i : BitVec 2) (t : Half) (s : State) : Host.Outcome State Fault Refusal :=
  transact (withSlot i fun k s => .done () (s.setD2c { s.d2c with dataH := s.d2c.dataH.set k (.host t) })) s

/-- `SET_SEMAPHORE x` (R84). -/
def execSetSemaphore (x : Half) (s : State) : Host.Outcome State Fault Refusal :=
  transact (apbpSetSem .c2d x) s

/-- `GET_SEMAPHORE` (R85). -/
def execGetSemaphore (s : State) : Host.Outcome State Fault Refusal :=
  transact (fun s => (apbpGetSem .d2c s).bind fun x s => giveResult .host x.toNat s) s

/-- `SET_SEMAPHORE_HANDLER t` (R86). -/
def execSetSemaphoreHandler (t : Half) (s : State) : Host.Outcome State Fault Refusal :=
  transact (fun s => .done () (s.setD2c { s.d2c with semH := .host t })) s

/-! Processor transactions: a body, which a Processor step issues, and the transaction. -/

/-- The body of `DSP_SEND_DATA i, x` (R87). -/
def dspSendData (i : BitVec 2) (x : Half) (s : State) : Eff Unit := apbpSend .d2c i x s

/-- The body of `DSP_RECV_DATA i` (R88). -/
def dspRecvData (i : BitVec 2) (s : State) : Eff Unit :=
  (apbpRecv .c2d i s).bind fun x s => giveResult .processor x.toNat s

/-- The body of `DSP_IS_DATA_READY i` (R89). -/
def dspIsDataReady (i : BitVec 2) (s : State) : Eff Unit :=
  (apbpIsReady .c2d i s).bind fun b s => giveResult .processor (boolResult b) s

/-- The body of `DSP_OUT_IS_READY i` (R90). -/
def dspOutIsReady (i : BitVec 2) (s : State) : Eff Unit :=
  (apbpIsReady .d2c i s).bind fun b s => giveResult .processor (boolResult b) s

/-- The body of `DSP_SET_SEMAPHORE x` (R91). -/
def dspSetSemaphore (x : Half) (s : State) : Eff Unit := apbpSetSem .d2c x s

/-- The body of `DSP_GET_SEMAPHORE` (R92). -/
def dspGetSemaphore (s : State) : Eff Unit :=
  (apbpGetSem .c2d s).bind fun x s => giveResult .processor x.toNat s

/-- `DSP_SEND_DATA i, x` (R87). -/
def execDspSendData (i : BitVec 2) (x : Half) (s : State) : Host.Outcome State Fault Refusal :=
  transact (dspSendData i x) s

/-- `DSP_RECV_DATA i` (R88). -/
def execDspRecvData (i : BitVec 2) (s : State) : Host.Outcome State Fault Refusal :=
  transact (dspRecvData i) s

/-- `DSP_IS_DATA_READY i` (R89). -/
def execDspIsDataReady (i : BitVec 2) (s : State) : Host.Outcome State Fault Refusal :=
  transact (dspIsDataReady i) s

/-- `DSP_OUT_IS_READY i` (R90). -/
def execDspOutIsReady (i : BitVec 2) (s : State) : Host.Outcome State Fault Refusal :=
  transact (dspOutIsReady i) s

/-- `DSP_SET_SEMAPHORE x` (R91). -/
def execDspSetSemaphore (x : Half) (s : State) : Host.Outcome State Fault Refusal :=
  transact (dspSetSemaphore x) s

/-- `DSP_GET_SEMAPHORE` (R92). -/
def execDspGetSemaphore (s : State) : Host.Outcome State Fault Refusal :=
  transact dspGetSemaphore s

end Sys2Proof.Machine
end

