-- ==== Sys2Proof/Machine/BtdmpUnits.lean ====
section
/-! DEFINITION. The Btdmp units' operations (44_btdmp R95 to R98). -/

namespace Sys2Proof.Machine

/-- The body of `BTDMP_CFG k, en, Q` (R97). -/
def btdmpCfg (k : UnitId) (en : Bool) (q : Word) (s : State) : Eff Unit :=
  if en then
    if q = 0 then .raised (s.raise .btdmpPeriodZero)
    else .done () (s.setBtdmp k (btdmpStart (s.btdmp.get k) q))
  else
    if q = 0 then .done () (s.setBtdmp k (btdmpStop (s.btdmp.get k)))
    else .raised (s.raise .encoding)

/-- The reference policy for an enabled unit (R96): it counts like a timer. -/
def periodicFire (u : Btdmp) : Btdmp × Bool :=
  let c := u.counter - 1
  if c = 0 then ({ u with counter := u.period }, true) else ({ u with counter := c }, false)

/-- `BTDMP_POLICY.fire_step` (R95, R96): a disabled unit is returned unchanged, which R95 asks of every policy. -/
def fireStep (p : BtdmpPolicy) (u : Btdmp) : Btdmp × Bool :=
  if u.enabled then
    match p with
    | .periodic => periodicFire u
    | .unspecified _ => Config.btdmpFire u
  else (u, false)

/-- The body of `BTDMP_TICK k` (R98). -/
def btdmpTick (k : UnitId) (s : State) : Eff Unit :=
  let r := fireStep s.cfg.btdmpPolicy (s.btdmp.get k)
  let s := s.setBtdmp k r.1
  if r.2 then callHandler (.icu Config.vecBtdmp) (.btdmp k) s else .done () s

/-- `BTDMP_CFG k, en, Q` (R97). -/
def execBtdmpCfg (k : UnitId) (en : Bool) (q : Word) (s : State) : Host.Outcome State Fault Refusal :=
  transact (btdmpCfg k en q) s

/-- `BTDMP_TICK k` (R98). -/
def execBtdmpTick (k : UnitId) (s : State) : Host.Outcome State Fault Refusal :=
  transact (btdmpTick k) s

end Sys2Proof.Machine
end

