-- ==== Sys2Proof/Machine/DmaAhbm.lean ====
section
/-! DEFINITION. Dma and Ahbm (42_dma_ahbm R67 to R70). -/

namespace Sys2Proof.Machine

/-- The body of `EXT_READ8 a` (R68): the byte goes to the caller. -/
def extRead8 (a : Word) (s : State) : Eff Byte :=
  match s.ahbm.cb with
  | none => .done Config.ahbmDefault s
  | some _ =>
    let (b, s) := drawByte s
    .done b (s.emit (.extRd a b))

/-- The body of `EXT_WRITE8 a, b` (R69). -/
def extWrite8 (a : Word) (b : Byte) (s : State) : Eff Unit :=
  match s.ahbm.cb with
  | none => .done () s
  | some _ => .done () (s.emit (.extWr a b))

/-- Byte number `i` of a transfer: read, then written (R67, D26). -/
def dmaByte (dir : Dir) (a e : Word) (i : Nat) (s : State) : Eff Unit :=
  match dir with
  | .toExt => (memRead (a.toNat + i) s).bind fun b s => extWrite8 (extAddr e i) b s
  | .fromExt => (extRead8 (extAddr e i) s).bind fun b s => memWrite (a.toNat + i) b s

/-- The last `n` bytes of a transfer, from byte number `i` on, in ascending order (R67). -/
def dmaBytes (dir : Dir) (a e : Word) : Nat → Nat → State → Eff Unit
  | 0, _, s => .done () s
  | n + 1, i, s => (dmaByte dir a e i s).bind fun _ s => dmaBytes dir a e n (i + 1) s

/-- The body of `DMA_START dir, a, e, L` (R67). -/
def dmaStart (dir : Dir) (a e len : Word) (s : State) : Eff Unit :=
  if !shmRunFits a len s then .raised (s.raise .memRange)
  else if !extRunFits e len then .raised (s.raise .extRange)
  else
    (dmaBytes dir a e len.toNat 0 (s.setDma ⟨dir, a, e, len⟩)).bind fun _ s =>
      callHandler (.icu Config.vecDma) .dma s

/-- `DMA_START dir, a, e, L` (R67). -/
def execDmaStart (dir : Dir) (a e len : Word) (s : State) : Host.Outcome State Fault Refusal :=
  transact (dmaStart dir a e len) s

/-- `EXT_READ8 a` issued on its own (R68): the byte its caller gets stands in `io.extReply` (log 8). -/
def execExtRead8 (a : Word) (s : State) : Host.Outcome State Fault Refusal :=
  transact (fun s => (extRead8 a s).bind fun b s => .done () (s.setIo { s.io with extReply := some b })) s

/-- `EXT_WRITE8 a, b` (R69). -/
def execExtWrite8 (b : Byte) (a : Word) (s : State) : Host.Outcome State Fault Refusal :=
  transact (extWrite8 a b) s

/-- `SET_AHBM_CALLBACK t` (R70). -/
def execSetAhbmCallback (t : Half) (s : State) : Host.Outcome State Fault Refusal :=
  transact (fun s => .done () (s.setAhbm t)) s

end Sys2Proof.Machine
end

