-- ==== Sys2Proof/Machine/Icu.lean ====
section
/-! DEFINITION. The ICU's operations (40_icu R56, R57). The delivery itself is in Ops. -/

namespace Sys2Proof.Machine

/-- The body of `ICU_SET_ROUTE v, r` (R57). -/
def icuSetRoute (v : Vec) (r : BitVec 2) (s : State) : Eff Unit :=
  match routeOf r with
  | some route => .done () (s.setRoute v route)
  | none => .raised (s.raise .encoding)

/-- `TRIGGER_SINGLE v` (R56). -/
def execTriggerSingle (v : Vec) (s : State) : Host.Outcome State Fault Refusal :=
  transact (trigger v) s

/-- `ICU_SET_ROUTE v, r` (R57). -/
def execIcuSetRoute (v : Vec) (r : BitVec 2) (s : State) : Host.Outcome State Fault Refusal :=
  transact (icuSetRoute v r) s

end Sys2Proof.Machine
end

