-- ==== Sys2Proof/Machine/Timers.lean ====
section
/-! DEFINITION. The timers' operations (41_timer R62 to R64). -/

namespace Sys2Proof.Machine

/-- The body of `TIMER_CFG k, en, P` (R62). -/
def timerCfg (k : UnitId) (en : Bool) (p : Word) (s : State) : Eff Unit :=
  if en then
    if p = 0 then .raised (s.raise .timerPeriodZero)
    else .done () (s.setTimer k (Timer.start p))
  else
    if p = 0 then .done () (s.setTimer k (s.timer.get k).stop)
    else .raised (s.raise .encoding)

/-- The vector a timer's expiry is wired to (R54). -/
def timerVec : UnitId → Vec
  | .u0 => Config.vecTimer0
  | .u1 => Config.vecTimer1

/-- The counter of timer `k` set to `c`. -/
def setCounter (k : UnitId) (c : Word) (s : State) : State :=
  s.setTimer k { s.timer.get k with counter := c }

/-- The body of `TIMER_TICK k` (R63): on expiry the handler runs and then the counter reloads. -/
def timerTick (k : UnitId) (s : State) : Eff Unit :=
  if (s.timer.get k).running then
    let s := setCounter k ((s.timer.get k).counter - 1) s
    if (s.timer.get k).counter = 0 then
      (callHandler (.icu (timerVec k)) (.timer k) s).bind fun _ s =>
        .done () (setCounter k (s.timer.get k).period s)
    else .done () s
  else .done () s

/-- `TIMER_CFG k, en, P` (R62). -/
def execTimerCfg (k : UnitId) (en : Bool) (p : Word) (s : State) : Host.Outcome State Fault Refusal :=
  transact (timerCfg k en p) s

/-- `TIMER_TICK k` (R63). -/
def execTimerTick (k : UnitId) (s : State) : Host.Outcome State Fault Refusal :=
  transact (timerTick k) s

end Sys2Proof.Machine
end

