-- ==== Sys2Proof/Machine/Engine.lean ====
section
/-! DEFINITION. The engine: the memory ports (45_engine R106 to R109), the Processor step (R100), the step sequencer (R103)
and the reset (70_reset_and_hazards R127). -/

namespace Sys2Proof.Machine

/-! Memory ports. -/

/-- The body of a byte read for an agent (R106, R108). -/
def portRead (who : Agent) (a : Word) (s : State) : Eff Unit :=
  (memRead (effAddr a) s).bind fun b s => giveResult who b.toNat s

/-- The body of `DSP_MEM_READ a` (R108). -/
def dspMemRead (a : Word) (s : State) : Eff Unit := portRead .processor a s

/-- The body of `DSP_MEM_WRITE b, a` (R109). -/
def dspMemWrite (b : Byte) (a : Word) (s : State) : Eff Unit := memWrite (effAddr a) b s

/-- `HOST_MEM_READ a` (R106). -/
def execHostMemRead (a : Word) (s : State) : Host.Outcome State Fault Refusal :=
  transact (portRead .host a) s

/-- `HOST_MEM_WRITE b, a` (R107). -/
def execHostMemWrite (b : Byte) (a : Word) (s : State) : Host.Outcome State Fault Refusal :=
  transact (memWrite (effAddr a) b) s

/-- `DSP_MEM_READ a` (R108). -/
def execDspMemRead (a : Word) (s : State) : Host.Outcome State Fault Refusal :=
  transact (dspMemRead a) s

/-- `DSP_MEM_WRITE b, a` (R109). -/
def execDspMemWrite (b : Byte) (a : Word) (s : State) : Host.Outcome State Fault Refusal :=
  transact (dspMemWrite b a) s

/-! The Processor step. -/

/-- A Processor action: its rule's body, or `Fault(Agent)` for an operation of another agent (R50, R100). -/
def action (i : Instr) (s : State) : Eff Unit :=
  match i with
  | .dspSendData i x => dspSendData i x s
  | .dspRecvData i => dspRecvData i s
  | .dspIsDataReady i => dspIsDataReady i s
  | .dspOutIsReady i => dspOutIsReady i s
  | .dspSetSemaphore x => dspSetSemaphore x s
  | .dspGetSemaphore => dspGetSemaphore s
  | .dmaStart dir a e len => dmaStart dir a e len s
  | .timerCfg k en p => timerCfg k en p s
  | .btdmpCfg k en q => btdmpCfg k en q s
  | .icuSetRoute v r => icuSetRoute v r s
  | .dspMemRead a => dspMemRead a s
  | .dspMemWrite b a => dspMemWrite b a s
  | .reset | .run _ | .hostMemRead _ | .hostMemWrite _ _ | .sendDataIsEmpty _ | .sendData _ _
  | .recvDataIsReady _ | .recvData _ | .setRecvDataHandler _ _ | .setSemaphore _ | .getSemaphore
  | .setSemaphoreHandler _ | .setAhbmCallback _ | .triggerSingle _ | .procStep | .timerTick _
  | .btdmpTick _ | .extRead8 _ | .extWrite8 _ _ => .raised (s.raise .agent)

/-- An action's words, executed: the decoding comes first (R112). -/
def actionWords (t : Words) (s : State) : Eff Unit :=
  match decode t with
  | .error _ => .raised (s.raise .encoding)
  | .ok i => action i s

/-- The loop of `PROC_STEP` for at most `n` moves (R100): the Processor's state is replaced, then the action executed. -/
def procMoves : Nat → State → Eff Unit
  | 0, _ => .stopped .processorHang
  | n + 1, s =>
    let (m, s) := drawMove s
    match m with
    | none => .stopped .processorNoMove
    | some (.done p) => .done () (s.setProc p)
    | some (.act p a) => (actionWords a (s.setProc p)).bind fun _ s => procMoves n s

/-- How many moves the loop of `PROC_STEP` waits for: those already drawn, and as many more as the oracle makes. -/
def patience (s : State) : Nat := Config.procPatience s.io.draws + s.io.script.length

/-- The body of `PROC_STEP` (R100). -/
def procStep (s : State) : Eff Unit :=
  let s := s.setSteps (s.steps + 1)
  let s := s.emit (.stepBegin s.steps)
  procMoves (patience s) s

/-- `PROC_STEP` (R100). -/
def execProcStep (s : State) : Host.Outcome State Fault Refusal :=
  transact procStep s

/-! The step sequencer. -/

/-- One iteration of `RUN`: the Processor step, then the four ticks in their fixed order (R103). -/
def runStep (s : State) : Eff Unit :=
  (procStep s).bind fun _ s =>
  (timerTick .u0 s).bind fun _ s =>
  (timerTick .u1 s).bind fun _ s =>
  (btdmpTick .u0 s).bind fun _ s =>
  btdmpTick .u1 s

/-- `repeat n times` (R103). -/
def runSteps : Nat → State → Eff Unit
  | 0, s => .done () s
  | n + 1, s => (runStep s).bind fun _ s => runSteps n s

/-- The end of a run, completed or ended by a fault: no `Run` is executing any more (R26; DEDUCED, log 9). -/
def endRun (e : Eff Unit) : Eff Unit :=
  match e with
  | .done _ s => .done () (s.setInRun false)
  | .raised s => .raised (s.setInRun false)
  | .stopped f => .stopped f

/-- `RUN n` (R103). -/
def execRun (n : Word) (s : State) : Host.Outcome State Fault Refusal :=
  transact (fun s =>
    if s.eng.inRun || s.eng.inHandler then .raised (s.raise .reentrantRun)
    else endRun (runSteps n.toNat (s.setInRun true))) s

/-! Reset. -/

/-- An Apbp instance's reset: values and flags, the handlers untouched (R127). -/
def apbpReset (p : Apbp) : Apbp := Apbp.zero p.dataH p.semH

/-- The parts of `RESET` before the Processor's, in the order of R127, and what R130's table says of the ICU's active set
and of the engine's flags after a reset. -/
def resetBlock (s : State) : State :=
  { s with
    mem := []
    c2d := apbpReset s.c2d
    d2c := apbpReset s.d2c
    timer := ⟨Timer.zero, Timer.zero⟩
    dma := Dma.zero
    btdmp := ⟨btdmpZero s.cfg.btdmpAuxReset, btdmpZero s.cfg.btdmpAuxReset⟩
    icu := ⟨s.cfg.icuRouteReset, Icu.idle⟩
    eng := ⟨false, false⟩ }

/-- `RESET` (R127). -/
def execReset (s : State) : Host.Outcome State Fault Refusal :=
  transact (fun s => .done () ((drawProcReset (resetBlock s)).emit .resetDone)) s

end Sys2Proof.Machine
end

