-- ==== Sys2Proof/Machine/Admit.lean ====
section
/-! DEFINITION. Taking the host's next call from the port and admitting it (20_memory R42: the block fetches no
instructions; 30_encoding R49, R50; 60_exceptions R111, R112, R119), and the host transactions inside which an operation of
another agent runs. -/

namespace Sys2Proof.Machine

/-- What the next call comes to: settled without executing an operation, or an operation to execute. -/
inductive Admission where
  | settled (s : State)
  | run (i : Instr) (s : State)
  deriving DecidableEq, Repr

/-- A call of the host: on a faulted block it has no effect (R111); then the decoding, then the agent check (R112), each a
fault that changes no other state (R49, R50). Only a host operation is executed at the top level (R119). -/
def admitCall (t : Words) (s : State) : Admission :=
  match s.fault with
  | some _ => .settled s
  | none =>
    match decode t with
    | .error _ => .settled (s.raise .encoding)
    | .ok i => if i.agent = .host then .run i s else .settled (s.raise .agent)

/-- The host's next call, if one waits. Between calls nothing runs and the block keeps all its state (R119, R125). -/
def nextCall (s : State) : Admission :=
  match s.io.calls with
  | [] => .settled s
  | t :: rest => admitCall t (s.setIo { s.io with calls := rest })

/-! How one operation comes to run next (log 1). -/

/-- A host call put in front of those that wait. -/
def placeCall (t : Words) (s : State) : State := s.setIo { s.io with calls := t :: s.io.calls }

/-- A step of the Processor that issues the actions `as` and ends, placed as the next: `RUN 1` in front of the host's
calls, the moves in front of those already drawn, the Processor's state kept throughout. -/
def placeStep (as : List Words) (s : State) : State :=
  placeCall (encodeCall (.run 1))
    (s.setIo { s.io with
      script := as.map (fun a => some (.act s.proc a)) ++ some (.done s.proc) :: s.io.script })

/-- The state in which an operation's words are the next to be executed, inside a transaction whose rule lets its agent
issue them (R119): a host call for the host's; a Processor step for the Processor's; for the engine's, a transaction that
calls it: `RUN` for a step or a tick (R103), `DMA_START` of one byte for an external access (R67), the semaphore handler
for a trigger (R55). -/
def place (t : Words) (s : State) : State :=
  match decode t with
  | .error _ => placeCall t s
  | .ok (.triggerSingle v) => placeCall (encodeCall (.setSemaphore 0)) (s.setC2d { s.c2d with semH := .icu v })
  | .ok (.extRead8 a) => placeStep [encodeCall (.dmaStart .fromExt 0 a 1)] s
  | .ok (.extWrite8 b a) => placeStep [encodeCall (.dspMemWrite b 0), encodeCall (.dmaStart .toExt 0 a 1)] s
  | .ok .procStep | .ok (.timerTick _) | .ok (.btdmpTick _) => placeStep [] s
  | .ok i => if i.agent = .host then placeCall t s else placeStep [t] s

end Sys2Proof.Machine
end

