-- ==== Sys2Proof/Machine/Dispatch.lean ====
section
/-! DEFINITION. The one match over the operations: an arm a constructor, each one direct call of its meaning. -/

namespace Sys2Proof.Machine

def exec (i : Instr) (s : State) : Host.Outcome State Fault Refusal :=
  match i with
  | .reset => Sys2Proof.Machine.execReset s
  | .run n => Sys2Proof.Machine.execRun n s
  | .hostMemRead a => Sys2Proof.Machine.execHostMemRead a s
  | .hostMemWrite b a => Sys2Proof.Machine.execHostMemWrite b a s
  | .sendDataIsEmpty k => Sys2Proof.Machine.execSendDataIsEmpty k s
  | .sendData k x => Sys2Proof.Machine.execSendData k x s
  | .recvDataIsReady k => Sys2Proof.Machine.execRecvDataIsReady k s
  | .recvData k => Sys2Proof.Machine.execRecvData k s
  | .setRecvDataHandler k t => Sys2Proof.Machine.execSetRecvDataHandler k t s
  | .setSemaphore x => Sys2Proof.Machine.execSetSemaphore x s
  | .getSemaphore => Sys2Proof.Machine.execGetSemaphore s
  | .setSemaphoreHandler t => Sys2Proof.Machine.execSetSemaphoreHandler t s
  | .setAhbmCallback t => Sys2Proof.Machine.execSetAhbmCallback t s
  | .dspSendData k x => Sys2Proof.Machine.execDspSendData k x s
  | .dspRecvData k => Sys2Proof.Machine.execDspRecvData k s
  | .dspIsDataReady k => Sys2Proof.Machine.execDspIsDataReady k s
  | .dspOutIsReady k => Sys2Proof.Machine.execDspOutIsReady k s
  | .dspSetSemaphore x => Sys2Proof.Machine.execDspSetSemaphore x s
  | .dspGetSemaphore => Sys2Proof.Machine.execDspGetSemaphore s
  | .dmaStart dir a e len => Sys2Proof.Machine.execDmaStart dir a e len s
  | .timerCfg k en p => Sys2Proof.Machine.execTimerCfg k en p s
  | .btdmpCfg k en q => Sys2Proof.Machine.execBtdmpCfg k en q s
  | .icuSetRoute v r => Sys2Proof.Machine.execIcuSetRoute v r s
  | .dspMemRead a => Sys2Proof.Machine.execDspMemRead a s
  | .dspMemWrite b a => Sys2Proof.Machine.execDspMemWrite b a s
  | .triggerSingle v => Sys2Proof.Machine.execTriggerSingle v s
  | .procStep => Sys2Proof.Machine.execProcStep s
  | .timerTick k => Sys2Proof.Machine.execTimerTick k s
  | .btdmpTick k => Sys2Proof.Machine.execBtdmpTick k s
  | .extRead8 a => Sys2Proof.Machine.execExtRead8 a s
  | .extWrite8 b a => Sys2Proof.Machine.execExtWrite8 b a s

end Sys2Proof.Machine
end

