-- ==== Sys2Proof/Machine/Step.lean ====
section
/-! DEFINITION. One step of the model: one call of the host at the block's port, from its admission to its end (R12, R119). -/

namespace Sys2Proof.Machine

/-- One step. A host call runs to completion with everything it causes (R12); no call waiting, nothing happens (R125). -/
def step (s : State) : Host.Outcome State Fault Refusal :=
  match nextCall s with
  | .settled s => .next s
  | .run i s => exec i s

/-- The state in which a table row's word is the next to be executed: by the next step, inside the host transaction that
its agent needs (R119, log 1). -/
def State.withFetchWord (s : State) (nbits w : Nat) : State := place (tableWords nbits w) s

end Sys2Proof.Machine
end

