-- ==== Sys2Proof/Safety.lean ====
section
/-! DEFINITION. The terms claims are made in: what holds of every state of a run, what a delivered trigger leaves, and
sequences of transactions. -/

namespace Sys2Proof.Machine

/-! Invariants. -/

/-- Every listed byte is at an address below `n`. -/
def Memory.below (n : Nat) (m : Memory) : Bool := m.all fun c => decide (c.1 < n)

/-- SharedMemory is in its canonical form and inside `[0, SHMEM_SIZE)` (R29, R36). -/
def State.memWf (s : State) : Bool := s.mem.wf && s.mem.below s.cfg.shmemSize

/-- A running timer's counter is between 1 and its period (R65). -/
def Timer.wf (t : Timer) : Bool :=
  !t.running || (decide (1 ≤ t.counter.toNat) && decide (t.counter.toNat ≤ t.period.toNat))

/-- Both timers are in range. -/
def State.timersWf (s : State) : Bool := s.timer.u0.wf && s.timer.u1.wf

/-- No vector is being triggered, no run and no handler is executing (R18, R26). -/
def State.quiet (s : State) : Bool :=
  s.icu.active == Icu.idle && !s.eng.inRun && !s.eng.inHandler

/-- The handler is a call of the ICU. -/
def isIcu : Handler → Bool
  | .icu _ => true
  | .none | .host _ => false

/-- The wiring of R54: every `c2d` handler triggers `VEC_APBP`, no `d2c` handler is the ICU's. -/
def State.wired (s : State) : Bool :=
  s.c2d.dataH == ⟨.icu Config.vecApbp, .icu Config.vecApbp, .icu Config.vecApbp⟩
    && s.c2d.semH == .icu Config.vecApbp
    && !isIcu s.d2c.dataH.s0 && !isIcu s.d2c.dataH.s1 && !isIcu s.d2c.dataH.s2 && !isIcu s.d2c.semH

/-- The event is `FaultEv`. -/
def isFaultEv : Event → Bool
  | .faultEv _ => true
  | .raise _ | .deliver _ _ | .suppressed _ | .hostCb _ _ | .extRd _ _ | .extWr _ _ => false
  | .result _ _ | .stepBegin _ | .resetDone => false

/-- The event is `StepBegin`. -/
def isStepBegin : Event → Bool
  | .stepBegin _ => true
  | .raise _ | .deliver _ _ | .suppressed _ | .hostCb _ _ | .extRd _ _ | .extWr _ _ => false
  | .result _ _ | .faultEv _ | .resetDone => false

/-- A fault is recorded exactly when one was raised: none and no `FaultEv`, or the code of the one `FaultEv`, which is the
last event (R28, R111). -/
def State.faultRecorded (s : State) : Bool :=
  match s.fault with
  | none => !s.hist.any isFaultEv
  | some c => s.hist.getLast? == some (.faultEv c) && !s.hist.dropLast.any isFaultEv

/-- `s.steps` is the number of steps begun (R16). -/
def State.stepsCounted (s : State) : Bool := s.hist.countP isStepBegin == s.steps

/-- Every trigger of `v` made its one delivery, or was suppressed (R56). -/
def State.triggersAnswered (s : State) (v : Vec) : Bool :=
  s.hist.count (.raise v) ==
    s.hist.count (.deliver .direct v) + s.hist.count (.deliver .vectored v) + s.hist.count (.suppressed v)

/-- The vectors a source is wired to (R54). -/
def wiredVecs : List Vec :=
  [Config.vecTimer1, Config.vecTimer0, Config.vecBtdmp, Config.vecApbp, Config.vecDma]

/-- Under `Periodic` both Btdmp units hold the unit value in `aux` (R7, R96). -/
def State.auxUnit (s : State) : Bool :=
  s.cfg.btdmpPolicy != .periodic
    || (s.btdmp.u0.aux == Config.btdmpAuxUnit && s.btdmp.u1.aux == Config.btdmpAuxUnit)

/-! What transactions leave, in the spec's terms. -/

/-- The event that answers a trigger under a route (R56). -/
def answerEvent (v : Vec) : Route → Event
  | .direct => .deliver .direct v
  | .vectored => .deliver .vectored v
  | .masked => .suppressed v

/-- The Processor's state after a trigger under a route (R53, R56). -/
def signalled (p : ProcState) (v : Vec) : Route → ProcState
  | .direct => Config.procSignal p .direct v
  | .vectored => Config.procSignal p .vectored v
  | .masked => p

/-- What `TRIGGER_SINGLE v` leaves when `v` is not being triggered: two events, and the Processor signalled (R56). -/
def State.afterTrigger (s : State) (v : Vec) : State :=
  { s with
    hist := s.hist ++ [.raise v, answerEvent v (vecGet s.icu.route v)]
    proc := signalled s.proc v (vecGet s.icu.route v) }

/-- What the call of a handler leaves when its vector is not being triggered (R55). -/
def State.afterHandler (s : State) (h : Handler) (src : Source) : State :=
  match h with
  | .none => s
  | .icu v => s.afterTrigger v
  | .host t => { s with hist := s.hist ++ [.hostCb t src] }

/-- The vector of a handler, if it has one, is not being triggered. -/
def State.mayCall (s : State) (h : Handler) : Bool :=
  match h with
  | .icu v => !vecGet s.icu.active v
  | .none | .host _ => true

/-- The state with its first fault, of code `c`, raised: nothing else changes (R111). -/
def State.withFault (s : State) (c : FaultCode) : State :=
  { s with fault := some c, hist := s.hist ++ [.faultEv c] }

/-- A value given to an agent (R11). -/
def State.withResult (s : State) (who : Agent) (x : Nat) : State :=
  { s with hist := s.hist ++ [.result who x] }

/-- Operations executed one after another, up to one that stops. -/
def chain : List Instr → State → Host.Outcome State Fault Refusal
  | [], s => .next s
  | i :: is, s =>
    match exec i s with
    | .next t => chain is t
    | .fault f => .fault f
    | .refused r => .refused r

/-- An outcome whose next state is passed through `g`. -/
def mapNext (g : State → State) : Host.Outcome State Fault Refusal → Host.Outcome State Fault Refusal
  | .next t => .next (g t)
  | .fault f => .fault f
  | .refused r => .refused r

/-- The transactions of one iteration of `RUN` (R103). -/
def runBody : List Instr :=
  [.procStep, .timerTick .u0, .timerTick .u1, .btdmpTick .u0, .btdmpTick .u1]

/-- `n` copies of a list of operations, one after another. -/
def copies : Nat → List Instr → List Instr
  | 0, _ => []
  | n + 1, is => is ++ copies n is

/-- Operation `i` belongs to agent `who` and has the header `h` and the extension words `ext`: its words decode to it, its
length follows from `OP`, the host may issue it as a call, and the Processor as an action, exactly if it is theirs, and it
raises `Fault(Agent)` otherwise (R45, R46, R48, R50, R119). -/
def IssuedAs (i : Instr) (who : Agent) (h : Header) (ext : List Word) : Prop :=
  let t : Words := ⟨h.toWord, ext.getD 0 0, ext.getD 1 0, ext.getD 2 0⟩
  decode t = .ok i ∧ extCount h.toWord = ext.length ∧
    (∀ s : State, s.fault = none →
      admitCall t s = if who = .host then .run i s else .settled (s.withFault .agent)) ∧
    ∀ s : State, s.fault = none →
      (actionWords t s).outcome = if who = .processor then exec i s else .next (s.withFault .agent)

end Sys2Proof.Machine
end

