-- ==== Sys2Proof/Certificates/Slice0/Obligations.lean ====
section
/-! DEFINITION. The statements for the provers. Each is listed in OBLIGATIONS.json with its rules. -/

open Sys2Proof Sys2Proof.Machine

/-! The encoding. -/

/-- Every well-formed operation, with every value of its operands, decodes from the words it encodes to (R44 to R48). -/
def Obligations.DecodeOfEncodeIsTheInstruction : Prop :=
  ∀ i : Instr, i.wellFormed = true → decode (encodeCall i) = .ok i

/-- A word that decodes is the word of a well-formed operation, bit for bit, and its extension words are the operation's:
no two operations share a word and no bit of a legal word is ignored (R45, R46, R49). -/
def Obligations.LegalWordIsTheEncodingOfItsInstruction : Prop :=
  ∀ (t : Words) (i : Instr), decode t = .ok i →
    i.wellFormed = true ∧ i.header.toWord = t.w ∧ i.ext = [t.x1, t.x2, t.x3].take (extCount t.w)

/-- The words of an operation are cut whole from the front of any stream, by `OP` alone (R46). -/
def Obligations.StreamIsCutAfterItsFirstTransaction : Prop :=
  ∀ (i : Instr) (rest : List Word), cut (encode i ++ rest) = some (encodeCall i, rest)

/-- Words of the spec's test vectors, each written out there, decode to the operations they stand for. -/
def Obligations.TestVectorWordsDecode : Prop :=
  decode ⟨0x06001234, 0, 0, 0⟩ = .ok (.sendData 0 0x1234) ∧
  decode ⟨0x06C00001, 0, 0, 0⟩ = .ok (.sendData 3 1) ∧
  decode ⟨0x02000000, 0x64, 0, 0⟩ = .ok (.run 100) ∧
  decode ⟨0x26100000, 0x100, 0x2000, 4⟩ = .ok (.dmaStart .fromExt 0x100 0x2000 4) ∧
  decode ⟨0x27100000, 0xA, 0, 0⟩ = .ok (.timerCfg .u0 true 10) ∧
  decode ⟨0x28300000, 4, 0, 0⟩ = .ok (.btdmpCfg .u1 true 4) ∧
  decode ⟨0x290E0001, 0, 0, 0⟩ = .ok (.icuSetRoute 0xE 0b01) ∧
  decode ⟨0x400A0000, 0, 0, 0⟩ = .ok (.triggerSingle 0xA) ∧
  decode ⟨0x0400007F, 0x10, 0, 0⟩ = .ok (.hostMemWrite 0x7F 0x10) ∧
  decode ⟨0x290E0003, 0, 0, 0⟩ = .error .routeReserved ∧
  decode ⟨0x27000000, 3, 0, 0⟩ = .error .stoppedPeriod ∧
  decode ⟨0x06200005, 0, 0, 0⟩ = .error .unusedField ∧
  decode ⟨0x0400017F, 0, 0, 0⟩ = .error .byteHigh ∧
  decode ⟨0xFF000000, 0, 0, 0⟩ = .error .undefinedOp

/-! A step at the ports. -/

/-- The host's next call, if its words are legal and the operation is the host's, is executed: `step` is `exec` of the
decoded operation on the state in which the call has been taken, and nothing more (R12, R119). -/
def Obligations.StepRunsTheDecodedInstruction : Prop :=
  ∀ (s : State) (w : Words) (rest : List Words) (i : Instr),
    s.io.calls = w :: rest → s.fault = none → decode w = .ok i → i.agent = .host →
      step s = exec i { s with io := { s.io with calls := rest } }

/-- An illegal word raises `Fault(Encoding)` and changes no other state; an `OP` that no operation has is illegal and one
word long (R46, R49). -/
def Obligations.IllegalWordFaultsEncoding : Prop :=
  (∀ (s : State) (w : Words) (rest : List Words) (e : DecodeError),
    s.io.calls = w :: rest → s.fault = none → decode w = .error e →
      step s = .next (State.withFault { s with io := { s.io with calls := rest } } .encoding)) ∧
  ∀ t : Words, (∀ i : Instr, i.header.op ≠ (Header.ofWord t.w).op) →
    decode t = .error .undefinedOp ∧ extCount t.w = 0

/-- A legal word from an agent that may not issue it raises `Fault(Agent)` and changes no other state: a Processor or engine
operation among the host's calls, and a host or engine operation among the Processor's actions (R50). -/
def Obligations.WrongAgentFaultsAgent : Prop :=
  (∀ (s : State) (w : Words) (rest : List Words) (i : Instr),
    s.io.calls = w :: rest → s.fault = none → decode w = .ok i → i.agent ≠ .host →
      step s = .next (State.withFault { s with io := { s.io with calls := rest } } .agent)) ∧
  ∀ (s : State) (p : ProcState) (a : Words) (i : Instr) (rest : List (Option ProcMove)),
    s.fault = none → s.io.script = some (.act p a) :: rest → decode a = .ok i → i.agent ≠ .processor →
      exec .procStep s = .next (State.withFault
        { s with
          steps := s.steps + 1
          hist := s.hist ++ [.stepBegin (s.steps + 1)]
          proc := p
          io := { s.io with script := rest } } .agent)

/-- With no call waiting, a step changes nothing (R119, R125). -/
def Obligations.IdleBlockKeepsItsState : Prop :=
  ∀ s : State, s.io.calls = [] → step s = .next s

/-- On a faulted block every operation has no effect, `RESET` included, and a step only takes its call (R28, R111). -/
def Obligations.FaultedBlockIgnoresEveryTransaction : Prop :=
  ∀ (s : State) (c : FaultCode), s.fault = some c →
    (∀ i : Instr, exec i s = .next s) ∧
    step s = .next { s with io := { s.io with calls := s.io.calls.tail } }

/-! Invariants: what every step keeps. -/

/-- SharedMemory keeps its canonical form, with no byte outside `[0, SHMEM_SIZE)` (R29, R36). -/
def Obligations.MemoryStaysCanonical : Prop :=
  ∀ s t : State, s.memWf = true → step s = .next t → t.memWf = true

/-- A running timer's counter stays between 1 and its period (R65, which the spec derives). Between transactions no vector
is being triggered, which is the premise `quiet` and the invariant `QuietBetweenTransactions`. -/
def Obligations.RunningTimersStayInRange : Prop :=
  ∀ s t : State, s.quiet = true → s.timersWf = true → step s = .next t → t.timersWf = true

/-- After every transaction no vector is being triggered, and no run or handler is executing (R18, R26). That this holds
after a fault inside a `RUN` is the model's reading (log 9). -/
def Obligations.QuietBetweenTransactions : Prop :=
  ∀ s t : State, s.quiet = true → step s = .next t → t.quiet = true

/-- The wiring of the Apbp handlers is kept: `c2d`'s trigger `0xE`, `d2c`'s are never the ICU's (R22, R54). -/
def Obligations.WiringIsKept : Prop :=
  ∀ s t : State, s.wired = true → step s = .next t → t.wired = true

/-- No step writes a parameter of the block (log 5). -/
def Obligations.ParametersNeverChange : Prop :=
  ∀ s t : State, step s = .next t → t.cfg = s.cfg

/-- No step removes or changes an event of the history (R27). -/
def Obligations.HistoryOnlyGrows : Prop :=
  ∀ s t : State, step s = .next t → s.hist <+: t.hist

/-- A block without a fault has no `FaultEv` in its history; a faulted one has exactly one, of its code, as its last event
(R28, R111, R112). -/
def Obligations.FaultIsTheLastEvent : Prop :=
  ∀ s t : State, s.faultRecorded = true → step s = .next t → t.faultRecorded = true

/-- `s.steps` stays the number of Processor steps begun (R16). -/
def Obligations.StepsAreCounted : Prop :=
  ∀ s t : State, s.stepsCounted = true → step s = .next t → t.stepsCounted = true

/-- Every trigger of a vector is answered by exactly one delivery, or by `Suppressed` (R56). -/
def Obligations.EveryTriggerIsAnsweredOnce : Prop :=
  ∀ (s t : State) (v : Vec), s.triggersAnswered v = true → step s = .next t → t.triggersAnswered v = true

/-- In a wired block no step raises a vector that no source is wired to: the host alone issues top-level transactions, and
none of them triggers such a vector (R54, R119). -/
def Obligations.OnlyWiredVectorsAreRaised : Prop :=
  ∀ s t : State, s.wired = true → step s = .next t →
    ∀ v : Vec, v ∉ wiredVecs → t.hist.count (.raise v) = s.hist.count (.raise v)

/-- The construction state meets every invariant stated here, for every value of the open parameters, with a SharedMemory of
at least one byte; `State.reset` is one. -/
def Obligations.ConstructionMeetsTheInvariants : Prop :=
  ∀ c : Params, ∃ s : State, s = State.construct c ∧ (c = Params.reference → s = State.reset) ∧
    s.memWf = true ∧ s.timersWf = true ∧ s.quiet = true ∧ s.wired = true ∧ s.faultRecorded = true ∧
    s.stepsCounted = true ∧ s.auxUnit = true ∧ 1 ≤ s.cfg.shmemSize ∧ ∀ v : Vec, s.triggersAnswered v = true

/-! Rules about all operations. -/

/-- An operation that changes a route is `ICU_SET_ROUTE`, `RESET`, or one that runs the Processor (R17). -/
def Obligations.RouteIsWrittenBySetRouteAndReset : Prop :=
  ∀ (i : Instr) (s t : State), exec i s = .next t → t.icu.route ≠ s.icu.route →
    i = .reset ∨ i = .procStep ∨ (∃ n, i = .run n) ∨ ∃ v r, i = .icuSetRoute v r

/-- A host operation other than `RESET` and `RUN` leaves the timers, the Btdmp units, the DMA configuration, the ICU, the
step count and the engine's flags as they are (R120). -/
def Obligations.HostOperationsLeaveThePeripherals : Prop :=
  ∀ (i : Instr) (s t : State), i.agent = .host → i ≠ .reset → (∀ n, i ≠ .run n) → exec i s = .next t →
    t.timer = s.timer ∧ t.btdmp = s.btdmp ∧ t.dma = s.dma ∧ t.icu = s.icu ∧ t.steps = s.steps ∧ t.eng = s.eng

/-- No operation writes a `c2d` handler, and only the host's installs write a `d2c` handler or the Ahbm callback: `RESET`
keeps them (R22, R24). -/
def Obligations.HandlersChangeByTheHostsInstallsAlone : Prop :=
  ∀ (i : Instr) (s t : State), exec i s = .next t →
    t.c2d.dataH = s.c2d.dataH ∧ t.c2d.semH = s.c2d.semH ∧
    ((∀ k x, i ≠ .setRecvDataHandler k x) → t.d2c.dataH = s.d2c.dataH) ∧
    ((∀ x, i ≠ .setSemaphoreHandler x) → t.d2c.semH = s.d2c.semH) ∧
    ((∀ x, i ≠ .setAhbmCallback x) → t.ahbm = s.ahbm)

/-- No operation but the two that run the Processor depends on the Processor's state: on a block that differs in it alone,
the operation leaves a block that differs in it alone (R25). -/
def Obligations.ProcessorStateIsNeverInspected : Prop :=
  ∀ (i : Instr) (s t : State) (p : ProcState), i ≠ .procStep → (∀ n, i ≠ .run n) → exec i s = .next t →
    ∃ q : ProcState, exec i { s with proc := p } = .next { t with proc := q }

/-! The ICU. -/

/-- `TRIGGER_SINGLE v` (R56): a vector not being triggered raises exactly one event of its route, with one `PROC.signal`
unless it is masked, and leaves everything else; a vector being triggered raises `Fault(ReentrantTrigger)`; on a faulted
block nothing happens. -/
def Obligations.TriggerDeliversByItsRoute : Prop :=
  (∀ v : Vec, IssuedAs (.triggerSingle v) .engine ⟨0x40, 0, 0, 0, v, 0⟩ []) ∧
  ∀ (s : State) (v : Vec), s.fault = none →
    (vecGet s.icu.active v = true → exec (.triggerSingle v) s = .next (s.withFault .reentrantTrigger)) ∧
    (vecGet s.icu.active v = false →
      (vecGet s.icu.route v = .direct → exec (.triggerSingle v) s = .next
        { s with
          hist := s.hist ++ [.raise v, .deliver .direct v]
          proc := Config.procSignal s.proc .direct v }) ∧
      (vecGet s.icu.route v = .vectored → exec (.triggerSingle v) s = .next
        { s with
          hist := s.hist ++ [.raise v, .deliver .vectored v]
          proc := Config.procSignal s.proc .vectored v }) ∧
      (vecGet s.icu.route v = .masked → exec (.triggerSingle v) s = .next
        { s with hist := s.hist ++ [.raise v, .suppressed v] })) ∧
    ∀ c : FaultCode, exec (.triggerSingle v) { s with fault := some c } = .next { s with fault := some c }

/-- `ICU_SET_ROUTE v, r` (R57): the route of `v` becomes the one of the code and no other route changes; the code `11` is
an illegal word and raises `Fault(Encoding)`. -/
def Obligations.SetRouteWritesOneRoute : Prop :=
  (∀ (v : Vec) (r : BitVec 2), r ≠ 3 → IssuedAs (.icuSetRoute v r) .processor ⟨0x29, 0, 0, 0, v, r.setWidth 16⟩ []) ∧
  (∀ (v : Vec) (x1 x2 x3 : Word), decode ⟨Header.toWord ⟨0x29, 0, 0, 0, v, 3⟩, x1, x2, x3⟩ = .error .routeReserved) ∧
  ∀ (s : State) (v : Vec), s.fault = none →
    exec (.icuSetRoute v 3) s = .next (s.withFault .encoding) ∧
    ∀ (r : BitVec 2) (d : Route), (r, d) ∈ [(0, Route.direct), (1, .vectored), (2, .masked)] →
      ∃ table : Vector Route 16,
        exec (.icuSetRoute v r) s = .next { s with icu := { s.icu with route := table } } ∧
        vecGet table v = d ∧ ∀ w, w ≠ v → vecGet table w = vecGet s.icu.route w

/-- Calling a handler (R55): the ICU's is `TRIGGER_SINGLE`, the host's is one event and leaves `in_handler` as it was, and
none is nothing. -/
def Obligations.HandlerCallDoesWhatItsKindSays : Prop :=
  ∀ (s : State) (src : Source), s.fault = none →
    (∀ v : Vec, (callHandler (.icu v) src s).outcome = exec (.triggerSingle v) s) ∧
    (∀ t : Half, callHandler (.host t) src s = .done () { s with hist := s.hist ++ [.hostCb t src] }) ∧
    callHandler .none src s = .done () s

/-! The timers. -/

/-- `TIMER_CFG k, en, P` (R62). -/
def Obligations.TimerCfgStartsStopsOrFaults : Prop :=
  (∀ (k : UnitId) (p : Word), IssuedAs (.timerCfg k true p) .processor ⟨0x27, 0, k.bit, 1, 0, 0⟩ [p]) ∧
  (∀ k : UnitId, IssuedAs (.timerCfg k false 0) .processor ⟨0x27, 0, k.bit, 0, 0, 0⟩ [0]) ∧
  ∀ (s : State) (k : UnitId), s.fault = none →
    (∀ p : Word, p ≠ 0 →
      exec (.timerCfg k true p) s = .next { s with timer := s.timer.set k ⟨true, p, p⟩ } ∧
      exec (.timerCfg k false p) s = .next (s.withFault .encoding)) ∧
    exec (.timerCfg k true 0) s = .next (s.withFault .timerPeriodZero) ∧
    exec (.timerCfg k false 0) s = .next { s with
      timer := s.timer.set k ⟨false, (s.timer.get k).period, (s.timer.get k).counter⟩ }

/-- `TIMER_TICK k` (R63): a disabled timer's tick does nothing; a running one's counts down modulo 2^32, and on reaching 0
triggers `0xA` for Timer0 or `0x9` for Timer1 and reloads, unless that vector is being triggered. -/
def Obligations.TimerTickCountsAndFires : Prop :=
  (∀ k : UnitId, IssuedAs (.timerTick k) .engine ⟨0x42, 0, k.bit, 0, 0, 0⟩ []) ∧
  ∀ (s : State) (k : UnitId), s.fault = none →
    ((s.timer.get k).running = false → exec (.timerTick k) s = .next s) ∧
    ((s.timer.get k).running = true → (s.timer.get k).counter ≠ 1 →
      ∃ c : Word, c.toNat = ((s.timer.get k).counter.toNat + (2 ^ 32 - 1)) % 2 ^ 32 ∧
        exec (.timerTick k) s = .next { s with timer := s.timer.set k ⟨true, (s.timer.get k).period, c⟩ }) ∧
    ((s.timer.get k).running = true → (s.timer.get k).counter = 1 →
      (vecGet s.icu.active (if k = .u0 then 0xA else 0x9) = false →
        exec (.timerTick k) s = .next (State.afterTrigger
          { s with timer := s.timer.set k ⟨true, (s.timer.get k).period, (s.timer.get k).period⟩ }
          (if k = .u0 then 0xA else 0x9))) ∧
      (vecGet s.icu.active (if k = .u0 then 0xA else 0x9) = true →
        exec (.timerTick k) s = .next (State.withFault
          { s with timer := s.timer.set k ⟨true, (s.timer.get k).period, 0⟩ } .reentrantTrigger)))

/-- A timer that runs with period `P` from the counter `P` fires `floor(N / P)` times in `N` ticks, and its counter is then
`P - (N mod P)` (R65, which the spec derives). -/
def Obligations.TimerFiresOncePerPeriod : Prop :=
  ∀ (s : State) (k : UnitId) (p : Word) (n : Nat), s.fault = none → p ≠ 0 →
    s.timer.get k = ⟨true, p, p⟩ → vecGet s.icu.active (timerVec k) = false →
    ∃ t : State, chain (List.replicate n (.timerTick k)) s = .next t ∧
      t.hist.count (.raise (timerVec k)) = s.hist.count (.raise (timerVec k)) + n / p.toNat ∧
      (t.timer.get k).counter.toNat = p.toNat - n % p.toNat ∧ t.fault = none

/-! The Btdmp units. -/

/-- `BTDMP_CFG k, en, Q` (R97). -/
def Obligations.BtdmpCfgStartsStopsOrFaults : Prop :=
  (∀ (k : UnitId) (q : Word), IssuedAs (.btdmpCfg k true q) .processor ⟨0x28, 0, k.bit, 1, 0, 0⟩ [q]) ∧
  (∀ k : UnitId, IssuedAs (.btdmpCfg k false 0) .processor ⟨0x28, 0, k.bit, 0, 0, 0⟩ [0]) ∧
  ∀ (s : State) (k : UnitId), s.fault = none →
    (∀ q : Word, q ≠ 0 →
      exec (.btdmpCfg k true q) s = .next { s with btdmp := s.btdmp.set k ⟨true, q, q, (s.btdmp.get k).aux⟩ } ∧
      exec (.btdmpCfg k false q) s = .next (s.withFault .encoding)) ∧
    exec (.btdmpCfg k true 0) s = .next (s.withFault .btdmpPeriodZero) ∧
    exec (.btdmpCfg k false 0) s = .next { s with
      btdmp := s.btdmp.set k ⟨false, (s.btdmp.get k).period, (s.btdmp.get k).counter, (s.btdmp.get k).aux⟩ }

/-- `BTDMP_TICK k` (R98), with the rules of its policy (R95, R96): under any policy a disabled unit's tick does nothing;
under any policy the unit takes the state the policy gives and `0xB` is triggered exactly if it fires; under `Periodic` an
enabled unit counts down, and on reaching 0 fires and reloads. -/
def Obligations.BtdmpTickFollowsItsPolicy : Prop :=
  (∀ k : UnitId, IssuedAs (.btdmpTick k) .engine ⟨0x43, 0, k.bit, 0, 0, 0⟩ []) ∧
  ∀ (s : State) (k : UnitId), s.fault = none →
    ((s.btdmp.get k).enabled = false → exec (.btdmpTick k) s = .next s) ∧
    ((fireStep s.cfg.btdmpPolicy (s.btdmp.get k)).2 = false →
      exec (.btdmpTick k) s = .next { s with
        btdmp := s.btdmp.set k (fireStep s.cfg.btdmpPolicy (s.btdmp.get k)).1 }) ∧
    ((fireStep s.cfg.btdmpPolicy (s.btdmp.get k)).2 = true → vecGet s.icu.active 0xB = false →
      exec (.btdmpTick k) s = .next (State.afterTrigger { s with
        btdmp := s.btdmp.set k (fireStep s.cfg.btdmpPolicy (s.btdmp.get k)).1 } 0xB)) ∧
    ((fireStep s.cfg.btdmpPolicy (s.btdmp.get k)).2 = true → vecGet s.icu.active 0xB = true →
      exec (.btdmpTick k) s = .next (State.withFault { s with
        btdmp := s.btdmp.set k (fireStep s.cfg.btdmpPolicy (s.btdmp.get k)).1 } .reentrantTrigger)) ∧
    (s.cfg.btdmpPolicy = .periodic → (s.btdmp.get k).enabled = true →
      ((s.btdmp.get k).counter = 1 → fireStep s.cfg.btdmpPolicy (s.btdmp.get k) =
        (⟨true, (s.btdmp.get k).period, (s.btdmp.get k).period, (s.btdmp.get k).aux⟩, true)) ∧
      ((s.btdmp.get k).counter ≠ 1 → fireStep s.cfg.btdmpPolicy (s.btdmp.get k) =
        (⟨true, (s.btdmp.get k).period, (s.btdmp.get k).counter - 1, (s.btdmp.get k).aux⟩, false)))

/-! Dma and Ahbm. -/

/-- `DMA_START to_ext` (R67, R69, R71): with a callback installed the history gains the `L` writes, in ascending order, of
the bytes of SharedMemory, and then the completion on `0xF`, once; without one it gains the completion alone. SharedMemory
and everything else but the configuration is left. -/
def Obligations.DmaOutWritesEveryByteInOrder : Prop :=
  (∀ a e len : Word, IssuedAs (.dmaStart .toExt a e len) .processor ⟨0x26, 0, 0, 0, 0, 0⟩ [a, e, len]) ∧
  ∀ (s : State) (a e len : Word), s.fault = none → a.toNat + len.toNat ≤ s.cfg.shmemSize →
    e.toNat + len.toNat ≤ 2 ^ 32 → vecGet s.icu.active 0xF = false →
    (∀ tok : Half, s.ahbm.cb = some tok →
      exec (.dmaStart .toExt a e len) s = .next (State.afterTrigger
        { s with
          dma := ⟨.toExt, a, e, len⟩
          hist := s.hist ++ (List.range len.toNat).map fun i =>
            .extWr (BitVec.ofNat 32 (e.toNat + i)) (s.mem.get (a.toNat + i)) } 0xF)) ∧
    (s.ahbm.cb = none →
      exec (.dmaStart .toExt a e len) s = .next (State.afterTrigger { s with dma := ⟨.toExt, a, e, len⟩ } 0xF))

/-- `DMA_START from_ext` with no callback installed (R67, R68, R71): the `L` bytes of the run become 0x00, every other byte
reads as before, no read is recorded, and the completion comes once. -/
def Obligations.DmaInWithoutCallbackClearsTheRun : Prop :=
  (∀ a e len : Word, IssuedAs (.dmaStart .fromExt a e len) .processor ⟨0x26, 0, 0, 1, 0, 0⟩ [a, e, len]) ∧
  ∀ (s : State) (a e len : Word), s.fault = none → s.mem.wf = true → a.toNat + len.toNat ≤ s.cfg.shmemSize →
    e.toNat + len.toNat ≤ 2 ^ 32 → vecGet s.icu.active 0xF = false → s.ahbm.cb = none →
    ∃ m : Memory,
      exec (.dmaStart .fromExt a e len) s =
        .next (State.afterTrigger { s with dma := ⟨.fromExt, a, e, len⟩, mem := m } 0xF) ∧
      (∀ x : Nat, a.toNat ≤ x → x < a.toNat + len.toNat → m.get x = 0x00) ∧
      ∀ x : Nat, x < a.toNat ∨ a.toNat + len.toNat ≤ x → m.get x = s.mem.get x

/-- `DMA_START from_ext` with a callback installed (R67, R68, R71): there are `L` host answers, those waiting first, each
recorded by one read in ascending order; the run holds them, every other byte reads as before, and the completion comes
once, after the last. What the answers beyond those waiting are is free. -/
def Obligations.DmaInStoresTheHostsAnswersInOrder : Prop :=
  ∀ (s : State) (a e len : Word) (tok : Half), s.fault = none → s.mem.wf = true →
    a.toNat + len.toNat ≤ s.cfg.shmemSize → e.toNat + len.toNat ≤ 2 ^ 32 → vecGet s.icu.active 0xF = false →
    s.ahbm.cb = some tok →
    ∃ (bs : List Byte) (m : Memory) (draws : Nat),
      bs.length = len.toNat ∧ s.io.answers.take len.toNat <+: bs ∧
      exec (.dmaStart .fromExt a e len) s = .next (State.afterTrigger
        { s with
          dma := ⟨.fromExt, a, e, len⟩
          mem := m
          hist := s.hist ++ bs.mapIdx fun i b => .extRd (BitVec.ofNat 32 (e.toNat + i)) b
          io := { s.io with answers := s.io.answers.drop len.toNat, draws := draws } } 0xF) ∧
      (∀ i : Nat, i < len.toNat → bs[i]? = some (m.get (a.toNat + i))) ∧
      ∀ x : Nat, x < a.toNat ∨ a.toNat + len.toNat ≤ x → m.get x = s.mem.get x

/-- A transfer whose SharedMemory run passes `SHMEM_SIZE` raises `Fault(MemRange)`, and one that does not but whose
external run passes `2^32 - 1` raises `Fault(ExtRange)`: before any byte moves and before the configuration is written
(R67, R112). -/
def Obligations.DmaOutOfRangeFaultsBeforeAnyByte : Prop :=
  ∀ (s : State) (dir : Dir) (a e len : Word), s.fault = none →
    (s.cfg.shmemSize < a.toNat + len.toNat → exec (.dmaStart dir a e len) s = .next (s.withFault .memRange)) ∧
    (a.toNat + len.toNat ≤ s.cfg.shmemSize → 2 ^ 32 < e.toNat + len.toNat →
      exec (.dmaStart dir a e len) s = .next (s.withFault .extRange))

/-- `EXT_READ8 a` (R68): an uninstalled read returns 0x00 and records nothing; an installed one returns the host's answer
and records it. The byte returned stands in the model's own field `io.extReply` (log 8). -/
def Obligations.ExtReadReturnsDefaultOrAnswer : Prop :=
  (∀ a : Word, IssuedAs (.extRead8 a) .engine ⟨0x44, 0, 0, 0, 0, 0⟩ [a]) ∧
  ∀ (s : State) (a : Word), s.fault = none →
    (s.ahbm.cb = none → exec (.extRead8 a) s = .next { s with io := { s.io with extReply := some 0x00 } }) ∧
    (∀ (tok : Half) (b : Byte) (rest : List Byte), s.ahbm.cb = some tok → s.io.answers = b :: rest →
      exec (.extRead8 a) s = .next { s with
        hist := s.hist ++ [.extRd a b]
        io := { s.io with answers := rest, extReply := some b } }) ∧
    ∀ tok : Half, s.ahbm.cb = some tok → s.io.answers = [] →
      ∃ b : Byte, exec (.extRead8 a) s = .next { s with
        hist := s.hist ++ [.extRd a b]
        io := { s.io with draws := s.io.draws + 1, extReply := some b } }

/-- `EXT_WRITE8 a, b` (R69): recorded with a callback installed, dropped without a trace otherwise. -/
def Obligations.ExtWriteIsRecordedOrDropped : Prop :=
  (∀ (a : Word) (b : Byte), IssuedAs (.extWrite8 b a) .engine ⟨0x45, 0, 0, 0, 0, b.setWidth 16⟩ [a]) ∧
  ∀ (s : State) (a : Word) (b : Byte), s.fault = none →
    (s.ahbm.cb = none → exec (.extWrite8 b a) s = .next s) ∧
    ∀ tok : Half, s.ahbm.cb = some tok →
      exec (.extWrite8 b a) s = .next { s with hist := s.hist ++ [.extWr a b] }

/-! The Apbp channels. `(0, s0), (1, s1), (2, s2)` are the three indices and their slots. -/

/-- `SEND_DATA` and `DSP_SEND_DATA` (R73, R80, R87): the slot takes the value and its flag is set, whatever it held, and
then the slot's handler is called, which on the host's side is a trigger of `0xE`; nothing else changes. Index 3 raises `Fault(Index)`. -/
def Obligations.SendFillsTheSlotAndCallsItsHandler : Prop :=
  (∀ (i : BitVec 2) (x : Half), IssuedAs (.sendData i x) .host ⟨0x06, i, 0, 0, 0, x⟩ [] ∧
    IssuedAs (.dspSendData i x) .processor ⟨0x20, i, 0, 0, 0, x⟩ []) ∧
  ∀ (s : State) (x : Half), s.fault = none →
    (∀ (i : BitVec 2) (k : Slot), (i, k) ∈ [((0 : BitVec 2), Slot.s0), (1, .s1), (2, .s2)] →
      (s.mayCall (s.c2d.dataH.get k) = true → exec (.sendData i x) s = .next (State.afterHandler
        { s with c2d := { s.c2d with data := s.c2d.data.set k x, ready := s.c2d.ready.set k true } }
        (s.c2d.dataH.get k) (.data k))) ∧
      (s.mayCall (s.c2d.dataH.get k) = false → exec (.sendData i x) s = .next (State.withFault
        { s with c2d := { s.c2d with data := s.c2d.data.set k x, ready := s.c2d.ready.set k true } }
        .reentrantTrigger)) ∧
      (s.mayCall (s.d2c.dataH.get k) = true → exec (.dspSendData i x) s = .next (State.afterHandler
        { s with d2c := { s.d2c with data := s.d2c.data.set k x, ready := s.d2c.ready.set k true } }
        (s.d2c.dataH.get k) (.data k))) ∧
      (s.mayCall (s.d2c.dataH.get k) = false → exec (.dspSendData i x) s = .next (State.withFault
        { s with d2c := { s.d2c with data := s.d2c.data.set k x, ready := s.d2c.ready.set k true } }
        .reentrantTrigger))) ∧
    (s.wired = true → ∀ k : Slot, s.c2d.dataH.get k = .icu 0xE) ∧
    exec (.sendData 3 x) s = .next (s.withFault .index) ∧ exec (.dspSendData 3 x) s = .next (s.withFault .index)

/-- The ready-flag queries (R74, R79, R81, R89, R90): each returns its flag, `SEND_DATA_IS_EMPTY` the flag's opposite, to
the agent that asked, and changes nothing but the history. Index 3 raises `Fault(Index)`. -/
def Obligations.ReadyQueriesHaveNoSideEffect : Prop :=
  (∀ i : BitVec 2, IssuedAs (.sendDataIsEmpty i) .host ⟨0x05, i, 0, 0, 0, 0⟩ [] ∧
    IssuedAs (.recvDataIsReady i) .host ⟨0x07, i, 0, 0, 0, 0⟩ [] ∧
    IssuedAs (.dspIsDataReady i) .processor ⟨0x22, i, 0, 0, 0, 0⟩ [] ∧
    IssuedAs (.dspOutIsReady i) .processor ⟨0x23, i, 0, 0, 0, 0⟩ []) ∧
  ∀ s : State, s.fault = none →
    (∀ (i : BitVec 2) (k : Slot), (i, k) ∈ [((0 : BitVec 2), Slot.s0), (1, .s1), (2, .s2)] →
      exec (.sendDataIsEmpty i) s = .next (s.withResult .host (if s.c2d.ready.get k then 0 else 1)) ∧
      exec (.recvDataIsReady i) s = .next (s.withResult .host (if s.d2c.ready.get k then 1 else 0)) ∧
      exec (.dspIsDataReady i) s = .next (s.withResult .processor (if s.c2d.ready.get k then 1 else 0)) ∧
      exec (.dspOutIsReady i) s = .next (s.withResult .processor (if s.d2c.ready.get k then 1 else 0))) ∧
    ∀ i ∈ [Instr.sendDataIsEmpty 3, .recvDataIsReady 3, .dspIsDataReady 3, .dspOutIsReady 3],
      exec i s = .next (s.withFault .index)

/-- `RECV_DATA` and `DSP_RECV_DATA` (R75, R82, R88): the slot's value is returned, whether or not it is ready, the flag is
cleared and the value stays; no event is raised. Index 3 raises `Fault(Index)`. -/
def Obligations.ReceiveConsumesTheFlagAndKeepsTheValue : Prop :=
  (∀ i : BitVec 2, IssuedAs (.recvData i) .host ⟨0x08, i, 0, 0, 0, 0⟩ [] ∧
    IssuedAs (.dspRecvData i) .processor ⟨0x21, i, 0, 0, 0, 0⟩ []) ∧
  ∀ s : State, s.fault = none →
    (∀ (i : BitVec 2) (k : Slot), (i, k) ∈ [((0 : BitVec 2), Slot.s0), (1, .s1), (2, .s2)] →
      exec (.recvData i) s = .next (State.withResult
        { s with d2c := { s.d2c with ready := s.d2c.ready.set k false } } .host (s.d2c.data.get k).toNat) ∧
      exec (.dspRecvData i) s = .next (State.withResult
        { s with c2d := { s.c2d with ready := s.c2d.ready.set k false } } .processor (s.c2d.data.get k).toNat)) ∧
    exec (.recvData 3) s = .next (s.withFault .index) ∧ exec (.dspRecvData 3) s = .next (s.withFault .index)

/-- `SET_SEMAPHORE` and `DSP_SET_SEMAPHORE` (R76, R84, R91): the register takes the value, its flag is set, and then the
semaphore's handler is called, which on the host's side is a trigger of `0xE`; nothing else changes. -/
def Obligations.SetSemaphoreWritesAndCallsItsHandler : Prop :=
  (∀ x : Half, IssuedAs (.setSemaphore x) .host ⟨0x0A, 0, 0, 0, 0, x⟩ [] ∧
    IssuedAs (.dspSetSemaphore x) .processor ⟨0x24, 0, 0, 0, 0, x⟩ []) ∧
  ∀ (s : State) (x : Half), s.fault = none →
    (s.wired = true → s.c2d.semH = .icu 0xE) ∧
    (s.mayCall s.c2d.semH = true →
      exec (.setSemaphore x) s = .next (State.afterHandler
        { s with c2d := { s.c2d with sem := x, semReady := true } } s.c2d.semH .sem)) ∧
    (s.mayCall s.c2d.semH = false →
      exec (.setSemaphore x) s = .next (State.withFault
        { s with c2d := { s.c2d with sem := x, semReady := true } } .reentrantTrigger)) ∧
    (s.mayCall s.d2c.semH = true →
      exec (.dspSetSemaphore x) s = .next (State.afterHandler
        { s with d2c := { s.d2c with sem := x, semReady := true } } s.d2c.semH .sem)) ∧
    (s.mayCall s.d2c.semH = false →
      exec (.dspSetSemaphore x) s = .next (State.withFault
        { s with d2c := { s.d2c with sem := x, semReady := true } } .reentrantTrigger))

/-- `GET_SEMAPHORE` and `DSP_GET_SEMAPHORE` (R77, R85, R92): the value is returned and its flag cleared. -/
def Obligations.GetSemaphoreConsumesTheFlag : Prop :=
  (IssuedAs .getSemaphore .host ⟨0x0B, 0, 0, 0, 0, 0⟩ [] ∧
    IssuedAs .dspGetSemaphore .processor ⟨0x25, 0, 0, 0, 0, 0⟩ []) ∧
  ∀ s : State, s.fault = none →
    exec .getSemaphore s = .next (State.withResult
      { s with d2c := { s.d2c with semReady := false } } .host s.d2c.sem.toNat) ∧
    exec .dspGetSemaphore s = .next (State.withResult
      { s with c2d := { s.c2d with semReady := false } } .processor s.c2d.sem.toNat)

/-- The host's installs (R70, R83, R86): the last token replaces whatever was there, nothing is called, and nothing else
changes. Index 3 raises `Fault(Index)`. -/
def Obligations.HostInstallsReplaceTheHandler : Prop :=
  (∀ (i : BitVec 2) (t : Half), IssuedAs (.setRecvDataHandler i t) .host ⟨0x09, i, 0, 0, 0, t⟩ [] ∧
    IssuedAs (.setSemaphoreHandler t) .host ⟨0x0C, 0, 0, 0, 0, t⟩ [] ∧
    IssuedAs (.setAhbmCallback t) .host ⟨0x0D, 0, 0, 0, 0, t⟩ []) ∧
  ∀ (s : State) (t : Half), s.fault = none →
    (∀ (i : BitVec 2) (k : Slot), (i, k) ∈ [((0 : BitVec 2), Slot.s0), (1, .s1), (2, .s2)] →
      exec (.setRecvDataHandler i t) s =
        .next { s with d2c := { s.d2c with dataH := s.d2c.dataH.set k (.host t) } }) ∧
    exec (.setRecvDataHandler 3 t) s = .next (s.withFault .index) ∧
    exec (.setSemaphoreHandler t) s = .next { s with d2c := { s.d2c with semH := .host t } } ∧
    exec (.setAhbmCallback t) s = .next { s with ahbm := ⟨some t⟩ }

/-- Slot index 3 decodes and raises `Fault(Index)` in every operation that takes an index, before any state is written
(R47, R73, R74, R75, R83). -/
def Obligations.SlotIndexThreeFaults : Prop :=
  ∀ (s : State) (x : Half), s.fault = none → ∀ i ∈ [Instr.sendDataIsEmpty 3, .sendData 3 x, .recvDataIsReady 3,
    .recvData 3, .setRecvDataHandler 3 x, .dspSendData 3 x, .dspRecvData 3, .dspIsDataReady 3, .dspOutIsReady 3],
    decode (encodeCall i) = .ok i ∧ exec i s = .next (s.withFault .index)

/-- A value sent is what the other side receives, twice, with the flag cleared (R93, which the spec derives), in both
directions. -/
def Obligations.SentValueIsReceivedTwice : Prop :=
  ∀ (s : State) (i : BitVec 2) (k : Slot) (x : Half), s.fault = none →
    (i, k) ∈ [((0 : BitVec 2), Slot.s0), (1, .s1), (2, .s2)] →
    (s.mayCall (s.c2d.dataH.get k) = true → ∃ t : State,
      chain [.sendData i x, .dspRecvData i, .dspRecvData i] s = .next t ∧
      [.result .processor x.toNat, .result .processor x.toNat] <:+ t.hist ∧
      t.c2d.ready.get k = false ∧ t.c2d.data.get k = x ∧ t.fault = none) ∧
    (s.mayCall (s.d2c.dataH.get k) = true → ∃ t : State,
      chain [.dspSendData i x, .recvData i, .recvData i] s = .next t ∧
      [.result .host x.toNat, .result .host x.toNat] <:+ t.hist ∧
      t.d2c.ready.get k = false ∧ t.d2c.data.get k = x ∧ t.fault = none)

/-! The memory ports. -/

/-- `HOST_MEM_READ` and `DSP_MEM_READ` (R106, R108): the byte is returned and nothing else changes; past SharedMemory they
raise `Fault(MemRange)`. -/
def Obligations.MemoryReadsReturnTheByte : Prop :=
  (∀ a : Word, IssuedAs (.hostMemRead a) .host ⟨0x03, 0, 0, 0, 0, 0⟩ [a] ∧
    IssuedAs (.dspMemRead a) .processor ⟨0x2A, 0, 0, 0, 0, 0⟩ [a]) ∧
  ∀ (s : State) (a : Word), s.fault = none →
    (a.toNat < s.cfg.shmemSize →
      exec (.hostMemRead a) s = .next (s.withResult .host (s.mem.get a.toNat).toNat) ∧
      exec (.dspMemRead a) s = .next (s.withResult .processor (s.mem.get a.toNat).toNat)) ∧
    (s.cfg.shmemSize ≤ a.toNat →
      exec (.hostMemRead a) s = .next (s.withFault .memRange) ∧
      exec (.dspMemRead a) s = .next (s.withFault .memRange))

/-- `HOST_MEM_WRITE` and `DSP_MEM_WRITE` (R107, R109): the byte at the address `X1` becomes the byte given, every other byte
reads as before, no event is raised and nothing else changes; past SharedMemory they raise `Fault(MemRange)`. -/
def Obligations.MemoryWritesChangeOneByte : Prop :=
  (∀ (b : Byte) (a : Word), IssuedAs (.hostMemWrite b a) .host ⟨0x04, 0, 0, 0, 0, b.setWidth 16⟩ [a] ∧
    IssuedAs (.dspMemWrite b a) .processor ⟨0x2B, 0, 0, 0, 0, b.setWidth 16⟩ [a]) ∧
  ∀ (s : State) (b : Byte) (a : Word), s.fault = none → s.mem.wf = true →
    (a.toNat < s.cfg.shmemSize → ∃ m : Memory,
      exec (.hostMemWrite b a) s = .next { s with mem := m } ∧
      exec (.dspMemWrite b a) s = .next { s with mem := m } ∧
      m.get a.toNat = b ∧ ∀ x : Nat, x ≠ a.toNat → m.get x = s.mem.get x) ∧
    (s.cfg.shmemSize ≤ a.toNat →
      exec (.hostMemWrite b a) s = .next (s.withFault .memRange) ∧
      exec (.dspMemWrite b a) s = .next (s.withFault .memRange))

/-- Two canonical memories that read alike at every address are equal: the state says nothing of SharedMemory but what it
reads as. -/
def Obligations.MemoriesThatReadAlikeAreEqual : Prop :=
  ∀ m m' : Memory, m.wf = true → m'.wf = true → (∀ a : Nat, m.get a = m'.get a) → m = m'

/-! The Processor step. -/

/-- `PROC_STEP` of a Processor that ends its step at once (R100): the step is counted and begun, and nothing else of the
block changes. -/
def Obligations.ProcStepWithoutActions : Prop :=
  IssuedAs .procStep .engine ⟨0x41, 0, 0, 0, 0, 0⟩ [] ∧
  ∀ (s : State) (p : ProcState) (rest : List (Option ProcMove)), s.fault = none →
    s.io.script = some (.done p) :: rest →
    exec .procStep s = .next { s with
      steps := s.steps + 1
      hist := s.hist ++ [.stepBegin (s.steps + 1)]
      proc := p
      io := { s.io with script := rest } }

/-- `PROC_STEP` of a Processor that issues one of its operations and then ends its step (R100): between the step's
beginning and its end stands exactly the operation; if it raised a fault, the step ends there. -/
def Obligations.ProcStepExecutesItsAction : Prop :=
  ∀ (s t : State) (p q : ProcState) (a : Words) (i : Instr) (rest : List (Option ProcMove)), s.fault = none →
    s.io.script = some (.act p a) :: some (.done q) :: rest → decode a = .ok i → i.agent = .processor →
    exec i { s with
      steps := s.steps + 1
      hist := s.hist ++ [.stepBegin (s.steps + 1)]
      proc := p
      io := { s.io with script := some (.done q) :: rest } } = .next t →
    (t.fault = none → exec .procStep s = .next { t with proc := q, io := { t.io with script := rest } }) ∧
    (t.fault ≠ none → exec .procStep s = .next t)

/-- An illegal word among the Processor's actions raises `Fault(Encoding)` and ends the step (R49, R100). -/
def Obligations.ProcStepFaultsOnAnIllegalAction : Prop :=
  ∀ (s : State) (p : ProcState) (a : Words) (e : DecodeError) (rest : List (Option ProcMove)), s.fault = none →
    s.io.script = some (.act p a) :: rest → decode a = .error e →
    exec .procStep s = .next (State.withFault
      { s with
        steps := s.steps + 1
        hist := s.hist ++ [.stepBegin (s.steps + 1)]
        proc := p
        io := { s.io with script := rest } } .encoding)

/-- A Processor with no move leaves the step stuck, with no transition (R100, I12), alone and inside a run. -/
def Obligations.ProcessorWithoutMoveIsStuck : Prop :=
  ∀ (s : State) (rest : List (Option ProcMove)), s.fault = none → s.io.script = none :: rest →
    exec .procStep s = .fault .processorNoMove ∧
    ∀ n : Word, n ≠ 0 → s.quiet = true → exec (.run n) s = .fault .processorNoMove

/-! The step sequencer. -/

/-- `RUN n` (R103): while a run or a handler is executing it raises `Fault(ReentrantRun)`; otherwise it is, with `in_run`
set around it, `n` times the sequence `PROC_STEP`, `TIMER_TICK 0`, `TIMER_TICK 1`, `BTDMP_TICK 0`, `BTDMP_TICK 1` of
transactions, up to the first fault. -/
def Obligations.RunIsTheRepeatedSequence : Prop :=
  (∀ n : Word, IssuedAs (.run n) .host ⟨0x02, 0, 0, 0, 0, 0⟩ [n]) ∧
  ∀ (s : State) (n : Word), s.fault = none →
    (s.eng.inRun = true ∨ s.eng.inHandler = true → exec (.run n) s = .next (s.withFault .reentrantRun)) ∧
    (s.eng = ⟨false, false⟩ →
      exec (.run n) s = mapNext (fun t => { t with eng := { t.eng with inRun := false } })
        (chain (copies n.toNat runBody) { s with eng := ⟨true, false⟩ }))

/-- `RUN n` with a Processor whose next `n` steps end at once completes without a fault (R103, R104): `n` Processor steps,
SharedMemory, the routes, the channels and the configuration untouched, and the flags as before. The steps' ends stand
in `io.script`, where any moves of the Processor may stand (log 3). -/
def Obligations.RunOfIdleStepsCompletes : Prop :=
  ∀ (s : State) (n : Word) (ps : List ProcState) (rest : List (Option ProcMove)), s.fault = none → s.quiet = true →
    ps.length = n.toNat → s.io.script = ps.map (fun p => some (.done p)) ++ rest →
    ∃ t : State, exec (.run n) s = .next t ∧ t.fault = none ∧ t.steps = s.steps + n.toNat ∧ t.mem = s.mem ∧
      t.icu = s.icu ∧ t.eng = s.eng ∧ t.c2d = s.c2d ∧ t.d2c = s.d2c ∧ t.dma = s.dma ∧ t.ahbm = s.ahbm ∧
      t.io = { s.io with script := rest }

/-- In such a run, of steps whose ends stand in `io.script` (log 3), a timer that starts with period `P` and counter `P`
fires exactly `floor(n / P)` times, whatever the other units do (R104, which the spec derives). -/
def Obligations.RunFiresTheTimerOncePerPeriod : Prop :=
  ∀ (s : State) (n : Word) (ps : List ProcState) (rest : List (Option ProcMove)) (k : UnitId) (p : Word),
    s.fault = none → s.quiet = true → ps.length = n.toNat →
    s.io.script = ps.map (fun p => some (.done p)) ++ rest → p ≠ 0 → s.timer.get k = ⟨true, p, p⟩ →
    ∃ t : State, exec (.run n) s = .next t ∧
      t.hist.count (.raise (timerVec k)) = s.hist.count (.raise (timerVec k)) + n.toNat / p.toNat ∧
      (t.timer.get k).counter.toNat = p.toNat - n.toNat % p.toNat

/-! Reset. -/

/-- `RESET` (R127, R128, R130): every field takes the value of R130's table, the handlers, the Ahbm callback, the step
count and the parameters are kept, and the history gains exactly `ResetDone`. A faulted block stays as it is. -/
def Obligations.ResetRestoresEveryField : Prop :=
  IssuedAs .reset .host ⟨0x01, 0, 0, 0, 0, 0⟩ [] ∧
  ∀ s : State, s.fault = none → ∃ p : ProcState,
    exec .reset s = .next
      { cfg := s.cfg
        mem := []
        icu := ⟨s.cfg.icuRouteReset, Vector.replicate 16 false⟩
        timer := ⟨⟨false, 0, 0⟩, ⟨false, 0, 0⟩⟩
        btdmp := ⟨⟨false, 0, 0, s.cfg.btdmpAuxReset⟩, ⟨false, 0, 0, s.cfg.btdmpAuxReset⟩⟩
        c2d := ⟨⟨0, 0, 0⟩, ⟨false, false, false⟩, 0, false, s.c2d.dataH, s.c2d.semH⟩
        d2c := ⟨⟨0, 0, 0⟩, ⟨false, false, false⟩, 0, false, s.d2c.dataH, s.d2c.semH⟩
        dma := ⟨.toExt, 0, 0, 0⟩
        ahbm := s.ahbm
        proc := p
        eng := ⟨false, false⟩
        steps := s.steps
        hist := s.hist ++ [.resetDone]
        fault := none
        io := { s.io with draws := s.io.draws + 1 } } ∧
    (∀ a : Nat, Memory.get [] a = 0) ∧
    ∀ c : FaultCode, exec .reset { s with fault := some c } = .next { s with fault := some c }

/-- A second `RESET` at once changes nothing but the history, which gains one more `ResetDone`, and the Processor's state,
which is `PROC.reset`'s business (R129, which the spec derives). -/
def Obligations.SecondResetChangesOnlyHistoryAndProcessor : Prop :=
  ∀ s t : State, s.fault = none → exec .reset s = .next t → ∃ p : ProcState,
    exec .reset t = .next { t with
      hist := t.hist ++ [.resetDone]
      proc := p
      io := { t.io with draws := t.io.draws + 1 } }

/-- The construction state, for every value of the open parameters, is the one a `RESET` gives, but for the history and
what is the Processor's (R30): no event, no step, no fault, the `c2d` handlers wired to `0xE`, no other handler and no
callback installed. The last clause, that `SEND_DATA_IS_EMPTY 0` returns 1, is the sentence that R30 marks as derived from
R21 and R79. -/
def Obligations.ConstructionIsTheResetState : Prop :=
  ∀ c : Params, ∃ (s : State) (p : ProcState), s = State.construct c ∧
    exec .reset s = .next { s with
      hist := [.resetDone]
      proc := p
      io := { s.io with draws := s.io.draws + 1 } } ∧
    s.hist = [] ∧ s.steps = 0 ∧ s.fault = none ∧ s.ahbm.cb = none ∧
    (∀ k : Slot, s.c2d.dataH.get k = .icu 0xE ∧ s.d2c.dataH.get k = .none) ∧
    s.c2d.semH = .icu 0xE ∧ s.d2c.semH = .none ∧
    exec (.sendDataIsEmpty 0) s = .next (s.withResult .host 1)

/-! The parameters. -/

/-- Under `Periodic` the streaming state of both Btdmp units stays the unit value (R7, R96). That zero stands for it is the
model's choice (log 6). -/
def Obligations.PeriodicAuxStaysTheUnitValue : Prop :=
  ∀ s t : State, s.auxUnit = true → step s = .next t → t.auxUnit = true
end

