-- ==== Sys2Proof/Laws/Encoding.lean ====
section
/-! SUPPORT. The header word and its fields (R45). -/

namespace Sys2Proof

/-- The fields of the word made of some fields are those fields. -/
theorem Header.ofWord_toWord (h : Header) : Header.ofWord h.toWord = h := by
  obtain ⟨op, i, k, e, v, imm⟩ := h
  simp only [Header.ofWord, Header.toWord, Header.mk.injEq]
  refine ⟨?_, ?_, ?_, ?_, ?_, ?_⟩ <;>
    (apply BitVec.eq_of_getLsbD_eq; intro j hj
     simp only [BitVec.getLsbD_extractLsb', BitVec.getLsbD_append, hj, decide_true, Bool.true_and])
  · rw [if_neg (by omega), if_neg (by omega), if_neg (by omega), if_neg (by omega), if_neg (by omega)]
    congr 1; omega
  · rw [if_neg (by omega), if_neg (by omega), if_neg (by omega), if_neg (by omega), if_pos (by omega)]
    congr 1; omega
  · rw [if_neg (by omega), if_neg (by omega), if_neg (by omega), if_pos (by omega)]
    congr 1; omega
  · rw [if_neg (by omega), if_neg (by omega), if_pos (by omega)]
    congr 1; omega
  · rw [if_neg (by omega), if_pos (by omega)]
    congr 1; omega
  · rw [if_pos (by omega)]
    congr 1; omega

/-- The word made of a word's fields is that word: the fields cover it. -/
theorem Header.toWord_ofWord (w : Word) : (Header.ofWord w).toWord = w := by
  apply BitVec.eq_of_getLsbD_eq
  intro j hj
  simp only [Header.ofWord, Header.toWord, BitVec.getLsbD_append, BitVec.getLsbD_extractLsb']
  split
  · rename_i h; simp [h]
  · split
    · rename_i h0 h; simp only [h, decide_true, Bool.true_and]; congr 1; omega
    · split
      · rename_i h1 h0 h; simp only [h, decide_true, Bool.true_and]; congr 1; omega
      · split
        · rename_i h2 h1 h0 h; simp only [h, decide_true, Bool.true_and]; congr 1; omega
        · split
          · rename_i h3 h2 h1 h0 h; simp only [h, decide_true, Bool.true_and]; congr 1; omega
          · rename_i h3 h2 h1 h0 h
            have : j - 16 - 4 - 1 - 1 - 2 < 8 := by omega
            simp only [this, decide_true, Bool.true_and]; congr 1; omega

@[simp] theorem unitOf_bit (k : UnitId) : unitOf k.bit = k := by cases k <;> decide
@[simp] theorem dirOf_bit (d : Dir) : dirOf d.bit = d := by cases d <;> decide
@[simp] theorem enableOf_bit (en : Bool) : enableOf (enableBit en) = en := by cases en <;> decide
@[simp] theorem bit_unitOf (k : BitVec 1) : (unitOf k).bit = k := by revert k; decide
@[simp] theorem bit_dirOf (e : BitVec 1) : (dirOf e).bit = e := by revert e; decide
@[simp] theorem bit_enableOf (e : BitVec 1) : enableBit (enableOf e) = e := by revert e; decide

/-! The low half of a header word as a byte and as a route code. -/

@[simp] theorem byteHigh_of_byte (b : Byte) : (b.setWidth 16).extractLsb' 8 8 = 0#8 := by
  apply BitVec.eq_of_getLsbD_eq; intro j hj; simp [hj]

@[simp] theorem byteLow_of_byte (b : Byte) : (b.setWidth 16).extractLsb' 0 8 = b := by
  apply BitVec.eq_of_getLsbD_eq; intro j hj; simp [hj]; omega

@[simp] theorem routeHigh_of_route (r : BitVec 2) : (r.setWidth 16).extractLsb' 2 14 = 0#14 := by revert r; decide

@[simp] theorem routeLow_of_route (r : BitVec 2) : (r.setWidth 16).extractLsb' 0 2 = r := by revert r; decide

/-- A half whose high byte is zero is its low byte. -/
theorem byte_of_byteHigh {x : Half} (h : x.extractLsb' 8 8 = 0#8) : (x.extractLsb' 0 8).setWidth 16 = x := by
  apply BitVec.eq_of_getLsbD_eq
  intro j hj
  by_cases h8 : j < 8
  · simp [hj, h8]
  · have := congrArg (fun y : BitVec 8 => y.getLsbD (j - 8)) h
    simp only [BitVec.getLsbD_extractLsb', show j - 8 < 8 by omega, decide_true, Bool.true_and] at this
    rw [show 8 + (j - 8) = j by omega] at this
    rw [BitVec.getLsbD_zero, BitVec.getLsbD_eq_getElem hj] at this
    simp [hj, h8, this]

/-- A half whose bits 15 to 2 are zero is its route code. -/
theorem route_of_routeHigh {x : Half} (h : x.extractLsb' 2 14 = 0#14) : (x.extractLsb' 0 2).setWidth 16 = x := by
  apply BitVec.eq_of_getLsbD_eq
  intro j hj
  by_cases h2 : j < 2
  · simp [hj, h2]
  · have := congrArg (fun y : BitVec 14 => y.getLsbD (j - 2)) h
    simp only [BitVec.getLsbD_extractLsb', show j - 2 < 14 by omega, decide_true, Bool.true_and] at this
    rw [show 2 + (j - 2) = j by omega] at this
    rw [BitVec.getLsbD_zero, BitVec.getLsbD_eq_getElem hj] at this
    simp [hj, h2, this]

end Sys2Proof
end

