-- ==== Sys2Proof/Laws/State.lean ====
section
/-! SUPPORT. One lemma for each field of the state under each update of Machine/Ops, all true by unfolding,
so that no later proof unfolds a record update. -/

namespace Sys2Proof.Machine

variable (s : State)

/-! `setMem`. -/

@[simp] theorem setMem_cfg (m : Memory) : (s.setMem m).cfg = s.cfg := rfl
@[simp] theorem setMem_mem (m : Memory) : (s.setMem m).mem = m := rfl
@[simp] theorem setMem_icu (m : Memory) : (s.setMem m).icu = s.icu := rfl
@[simp] theorem setMem_timer (m : Memory) : (s.setMem m).timer = s.timer := rfl
@[simp] theorem setMem_btdmp (m : Memory) : (s.setMem m).btdmp = s.btdmp := rfl
@[simp] theorem setMem_c2d (m : Memory) : (s.setMem m).c2d = s.c2d := rfl
@[simp] theorem setMem_d2c (m : Memory) : (s.setMem m).d2c = s.d2c := rfl
@[simp] theorem setMem_dma (m : Memory) : (s.setMem m).dma = s.dma := rfl
@[simp] theorem setMem_ahbm (m : Memory) : (s.setMem m).ahbm = s.ahbm := rfl
@[simp] theorem setMem_proc (m : Memory) : (s.setMem m).proc = s.proc := rfl
@[simp] theorem setMem_eng (m : Memory) : (s.setMem m).eng = s.eng := rfl
@[simp] theorem setMem_steps (m : Memory) : (s.setMem m).steps = s.steps := rfl
@[simp] theorem setMem_hist (m : Memory) : (s.setMem m).hist = s.hist := rfl
@[simp] theorem setMem_fault (m : Memory) : (s.setMem m).fault = s.fault := rfl
@[simp] theorem setMem_io (m : Memory) : (s.setMem m).io = s.io := rfl

/-! `setRoute`. -/

@[simp] theorem setRoute_cfg (v : Vec) (r : Route) : (s.setRoute v r).cfg = s.cfg := rfl
@[simp] theorem setRoute_mem (v : Vec) (r : Route) : (s.setRoute v r).mem = s.mem := rfl
@[simp] theorem setRoute_icu (v : Vec) (r : Route) : (s.setRoute v r).icu = { s.icu with route := vecSet s.icu.route v r } := rfl
@[simp] theorem setRoute_timer (v : Vec) (r : Route) : (s.setRoute v r).timer = s.timer := rfl
@[simp] theorem setRoute_btdmp (v : Vec) (r : Route) : (s.setRoute v r).btdmp = s.btdmp := rfl
@[simp] theorem setRoute_c2d (v : Vec) (r : Route) : (s.setRoute v r).c2d = s.c2d := rfl
@[simp] theorem setRoute_d2c (v : Vec) (r : Route) : (s.setRoute v r).d2c = s.d2c := rfl
@[simp] theorem setRoute_dma (v : Vec) (r : Route) : (s.setRoute v r).dma = s.dma := rfl
@[simp] theorem setRoute_ahbm (v : Vec) (r : Route) : (s.setRoute v r).ahbm = s.ahbm := rfl
@[simp] theorem setRoute_proc (v : Vec) (r : Route) : (s.setRoute v r).proc = s.proc := rfl
@[simp] theorem setRoute_eng (v : Vec) (r : Route) : (s.setRoute v r).eng = s.eng := rfl
@[simp] theorem setRoute_steps (v : Vec) (r : Route) : (s.setRoute v r).steps = s.steps := rfl
@[simp] theorem setRoute_hist (v : Vec) (r : Route) : (s.setRoute v r).hist = s.hist := rfl
@[simp] theorem setRoute_fault (v : Vec) (r : Route) : (s.setRoute v r).fault = s.fault := rfl
@[simp] theorem setRoute_io (v : Vec) (r : Route) : (s.setRoute v r).io = s.io := rfl

/-! `setActive`. -/

@[simp] theorem setActive_cfg (v : Vec) (b : Bool) : (s.setActive v b).cfg = s.cfg := rfl
@[simp] theorem setActive_mem (v : Vec) (b : Bool) : (s.setActive v b).mem = s.mem := rfl
@[simp] theorem setActive_icu (v : Vec) (b : Bool) : (s.setActive v b).icu = { s.icu with active := vecSet s.icu.active v b } := rfl
@[simp] theorem setActive_timer (v : Vec) (b : Bool) : (s.setActive v b).timer = s.timer := rfl
@[simp] theorem setActive_btdmp (v : Vec) (b : Bool) : (s.setActive v b).btdmp = s.btdmp := rfl
@[simp] theorem setActive_c2d (v : Vec) (b : Bool) : (s.setActive v b).c2d = s.c2d := rfl
@[simp] theorem setActive_d2c (v : Vec) (b : Bool) : (s.setActive v b).d2c = s.d2c := rfl
@[simp] theorem setActive_dma (v : Vec) (b : Bool) : (s.setActive v b).dma = s.dma := rfl
@[simp] theorem setActive_ahbm (v : Vec) (b : Bool) : (s.setActive v b).ahbm = s.ahbm := rfl
@[simp] theorem setActive_proc (v : Vec) (b : Bool) : (s.setActive v b).proc = s.proc := rfl
@[simp] theorem setActive_eng (v : Vec) (b : Bool) : (s.setActive v b).eng = s.eng := rfl
@[simp] theorem setActive_steps (v : Vec) (b : Bool) : (s.setActive v b).steps = s.steps := rfl
@[simp] theorem setActive_hist (v : Vec) (b : Bool) : (s.setActive v b).hist = s.hist := rfl
@[simp] theorem setActive_fault (v : Vec) (b : Bool) : (s.setActive v b).fault = s.fault := rfl
@[simp] theorem setActive_io (v : Vec) (b : Bool) : (s.setActive v b).io = s.io := rfl

/-! `setTimer`. -/

@[simp] theorem setTimer_cfg (k : UnitId) (t : Timer) : (s.setTimer k t).cfg = s.cfg := rfl
@[simp] theorem setTimer_mem (k : UnitId) (t : Timer) : (s.setTimer k t).mem = s.mem := rfl
@[simp] theorem setTimer_icu (k : UnitId) (t : Timer) : (s.setTimer k t).icu = s.icu := rfl
@[simp] theorem setTimer_timer (k : UnitId) (t : Timer) : (s.setTimer k t).timer = s.timer.set k t := rfl
@[simp] theorem setTimer_btdmp (k : UnitId) (t : Timer) : (s.setTimer k t).btdmp = s.btdmp := rfl
@[simp] theorem setTimer_c2d (k : UnitId) (t : Timer) : (s.setTimer k t).c2d = s.c2d := rfl
@[simp] theorem setTimer_d2c (k : UnitId) (t : Timer) : (s.setTimer k t).d2c = s.d2c := rfl
@[simp] theorem setTimer_dma (k : UnitId) (t : Timer) : (s.setTimer k t).dma = s.dma := rfl
@[simp] theorem setTimer_ahbm (k : UnitId) (t : Timer) : (s.setTimer k t).ahbm = s.ahbm := rfl
@[simp] theorem setTimer_proc (k : UnitId) (t : Timer) : (s.setTimer k t).proc = s.proc := rfl
@[simp] theorem setTimer_eng (k : UnitId) (t : Timer) : (s.setTimer k t).eng = s.eng := rfl
@[simp] theorem setTimer_steps (k : UnitId) (t : Timer) : (s.setTimer k t).steps = s.steps := rfl
@[simp] theorem setTimer_hist (k : UnitId) (t : Timer) : (s.setTimer k t).hist = s.hist := rfl
@[simp] theorem setTimer_fault (k : UnitId) (t : Timer) : (s.setTimer k t).fault = s.fault := rfl
@[simp] theorem setTimer_io (k : UnitId) (t : Timer) : (s.setTimer k t).io = s.io := rfl

/-! `setBtdmp`. -/

@[simp] theorem setBtdmp_cfg (k : UnitId) (u : Btdmp) : (s.setBtdmp k u).cfg = s.cfg := rfl
@[simp] theorem setBtdmp_mem (k : UnitId) (u : Btdmp) : (s.setBtdmp k u).mem = s.mem := rfl
@[simp] theorem setBtdmp_icu (k : UnitId) (u : Btdmp) : (s.setBtdmp k u).icu = s.icu := rfl
@[simp] theorem setBtdmp_timer (k : UnitId) (u : Btdmp) : (s.setBtdmp k u).timer = s.timer := rfl
@[simp] theorem setBtdmp_btdmp (k : UnitId) (u : Btdmp) : (s.setBtdmp k u).btdmp = s.btdmp.set k u := rfl
@[simp] theorem setBtdmp_c2d (k : UnitId) (u : Btdmp) : (s.setBtdmp k u).c2d = s.c2d := rfl
@[simp] theorem setBtdmp_d2c (k : UnitId) (u : Btdmp) : (s.setBtdmp k u).d2c = s.d2c := rfl
@[simp] theorem setBtdmp_dma (k : UnitId) (u : Btdmp) : (s.setBtdmp k u).dma = s.dma := rfl
@[simp] theorem setBtdmp_ahbm (k : UnitId) (u : Btdmp) : (s.setBtdmp k u).ahbm = s.ahbm := rfl
@[simp] theorem setBtdmp_proc (k : UnitId) (u : Btdmp) : (s.setBtdmp k u).proc = s.proc := rfl
@[simp] theorem setBtdmp_eng (k : UnitId) (u : Btdmp) : (s.setBtdmp k u).eng = s.eng := rfl
@[simp] theorem setBtdmp_steps (k : UnitId) (u : Btdmp) : (s.setBtdmp k u).steps = s.steps := rfl
@[simp] theorem setBtdmp_hist (k : UnitId) (u : Btdmp) : (s.setBtdmp k u).hist = s.hist := rfl
@[simp] theorem setBtdmp_fault (k : UnitId) (u : Btdmp) : (s.setBtdmp k u).fault = s.fault := rfl
@[simp] theorem setBtdmp_io (k : UnitId) (u : Btdmp) : (s.setBtdmp k u).io = s.io := rfl

/-! `setC2d`. -/

@[simp] theorem setC2d_cfg (a : Apbp) : (s.setC2d a).cfg = s.cfg := rfl
@[simp] theorem setC2d_mem (a : Apbp) : (s.setC2d a).mem = s.mem := rfl
@[simp] theorem setC2d_icu (a : Apbp) : (s.setC2d a).icu = s.icu := rfl
@[simp] theorem setC2d_timer (a : Apbp) : (s.setC2d a).timer = s.timer := rfl
@[simp] theorem setC2d_btdmp (a : Apbp) : (s.setC2d a).btdmp = s.btdmp := rfl
@[simp] theorem setC2d_c2d (a : Apbp) : (s.setC2d a).c2d = a := rfl
@[simp] theorem setC2d_d2c (a : Apbp) : (s.setC2d a).d2c = s.d2c := rfl
@[simp] theorem setC2d_dma (a : Apbp) : (s.setC2d a).dma = s.dma := rfl
@[simp] theorem setC2d_ahbm (a : Apbp) : (s.setC2d a).ahbm = s.ahbm := rfl
@[simp] theorem setC2d_proc (a : Apbp) : (s.setC2d a).proc = s.proc := rfl
@[simp] theorem setC2d_eng (a : Apbp) : (s.setC2d a).eng = s.eng := rfl
@[simp] theorem setC2d_steps (a : Apbp) : (s.setC2d a).steps = s.steps := rfl
@[simp] theorem setC2d_hist (a : Apbp) : (s.setC2d a).hist = s.hist := rfl
@[simp] theorem setC2d_fault (a : Apbp) : (s.setC2d a).fault = s.fault := rfl
@[simp] theorem setC2d_io (a : Apbp) : (s.setC2d a).io = s.io := rfl

/-! `setD2c`. -/

@[simp] theorem setD2c_cfg (a : Apbp) : (s.setD2c a).cfg = s.cfg := rfl
@[simp] theorem setD2c_mem (a : Apbp) : (s.setD2c a).mem = s.mem := rfl
@[simp] theorem setD2c_icu (a : Apbp) : (s.setD2c a).icu = s.icu := rfl
@[simp] theorem setD2c_timer (a : Apbp) : (s.setD2c a).timer = s.timer := rfl
@[simp] theorem setD2c_btdmp (a : Apbp) : (s.setD2c a).btdmp = s.btdmp := rfl
@[simp] theorem setD2c_c2d (a : Apbp) : (s.setD2c a).c2d = s.c2d := rfl
@[simp] theorem setD2c_d2c (a : Apbp) : (s.setD2c a).d2c = a := rfl
@[simp] theorem setD2c_dma (a : Apbp) : (s.setD2c a).dma = s.dma := rfl
@[simp] theorem setD2c_ahbm (a : Apbp) : (s.setD2c a).ahbm = s.ahbm := rfl
@[simp] theorem setD2c_proc (a : Apbp) : (s.setD2c a).proc = s.proc := rfl
@[simp] theorem setD2c_eng (a : Apbp) : (s.setD2c a).eng = s.eng := rfl
@[simp] theorem setD2c_steps (a : Apbp) : (s.setD2c a).steps = s.steps := rfl
@[simp] theorem setD2c_hist (a : Apbp) : (s.setD2c a).hist = s.hist := rfl
@[simp] theorem setD2c_fault (a : Apbp) : (s.setD2c a).fault = s.fault := rfl
@[simp] theorem setD2c_io (a : Apbp) : (s.setD2c a).io = s.io := rfl

/-! `setDma`. -/

@[simp] theorem setDma_cfg (d : Dma) : (s.setDma d).cfg = s.cfg := rfl
@[simp] theorem setDma_mem (d : Dma) : (s.setDma d).mem = s.mem := rfl
@[simp] theorem setDma_icu (d : Dma) : (s.setDma d).icu = s.icu := rfl
@[simp] theorem setDma_timer (d : Dma) : (s.setDma d).timer = s.timer := rfl
@[simp] theorem setDma_btdmp (d : Dma) : (s.setDma d).btdmp = s.btdmp := rfl
@[simp] theorem setDma_c2d (d : Dma) : (s.setDma d).c2d = s.c2d := rfl
@[simp] theorem setDma_d2c (d : Dma) : (s.setDma d).d2c = s.d2c := rfl
@[simp] theorem setDma_dma (d : Dma) : (s.setDma d).dma = d := rfl
@[simp] theorem setDma_ahbm (d : Dma) : (s.setDma d).ahbm = s.ahbm := rfl
@[simp] theorem setDma_proc (d : Dma) : (s.setDma d).proc = s.proc := rfl
@[simp] theorem setDma_eng (d : Dma) : (s.setDma d).eng = s.eng := rfl
@[simp] theorem setDma_steps (d : Dma) : (s.setDma d).steps = s.steps := rfl
@[simp] theorem setDma_hist (d : Dma) : (s.setDma d).hist = s.hist := rfl
@[simp] theorem setDma_fault (d : Dma) : (s.setDma d).fault = s.fault := rfl
@[simp] theorem setDma_io (d : Dma) : (s.setDma d).io = s.io := rfl

/-! `setAhbm`. -/

@[simp] theorem setAhbm_cfg (t : Half) : (s.setAhbm t).cfg = s.cfg := rfl
@[simp] theorem setAhbm_mem (t : Half) : (s.setAhbm t).mem = s.mem := rfl
@[simp] theorem setAhbm_icu (t : Half) : (s.setAhbm t).icu = s.icu := rfl
@[simp] theorem setAhbm_timer (t : Half) : (s.setAhbm t).timer = s.timer := rfl
@[simp] theorem setAhbm_btdmp (t : Half) : (s.setAhbm t).btdmp = s.btdmp := rfl
@[simp] theorem setAhbm_c2d (t : Half) : (s.setAhbm t).c2d = s.c2d := rfl
@[simp] theorem setAhbm_d2c (t : Half) : (s.setAhbm t).d2c = s.d2c := rfl
@[simp] theorem setAhbm_dma (t : Half) : (s.setAhbm t).dma = s.dma := rfl
@[simp] theorem setAhbm_ahbm (t : Half) : (s.setAhbm t).ahbm = ⟨some t⟩ := rfl
@[simp] theorem setAhbm_proc (t : Half) : (s.setAhbm t).proc = s.proc := rfl
@[simp] theorem setAhbm_eng (t : Half) : (s.setAhbm t).eng = s.eng := rfl
@[simp] theorem setAhbm_steps (t : Half) : (s.setAhbm t).steps = s.steps := rfl
@[simp] theorem setAhbm_hist (t : Half) : (s.setAhbm t).hist = s.hist := rfl
@[simp] theorem setAhbm_fault (t : Half) : (s.setAhbm t).fault = s.fault := rfl
@[simp] theorem setAhbm_io (t : Half) : (s.setAhbm t).io = s.io := rfl

/-! `setProc`. -/

@[simp] theorem setProc_cfg (p : ProcState) : (s.setProc p).cfg = s.cfg := rfl
@[simp] theorem setProc_mem (p : ProcState) : (s.setProc p).mem = s.mem := rfl
@[simp] theorem setProc_icu (p : ProcState) : (s.setProc p).icu = s.icu := rfl
@[simp] theorem setProc_timer (p : ProcState) : (s.setProc p).timer = s.timer := rfl
@[simp] theorem setProc_btdmp (p : ProcState) : (s.setProc p).btdmp = s.btdmp := rfl
@[simp] theorem setProc_c2d (p : ProcState) : (s.setProc p).c2d = s.c2d := rfl
@[simp] theorem setProc_d2c (p : ProcState) : (s.setProc p).d2c = s.d2c := rfl
@[simp] theorem setProc_dma (p : ProcState) : (s.setProc p).dma = s.dma := rfl
@[simp] theorem setProc_ahbm (p : ProcState) : (s.setProc p).ahbm = s.ahbm := rfl
@[simp] theorem setProc_proc (p : ProcState) : (s.setProc p).proc = p := rfl
@[simp] theorem setProc_eng (p : ProcState) : (s.setProc p).eng = s.eng := rfl
@[simp] theorem setProc_steps (p : ProcState) : (s.setProc p).steps = s.steps := rfl
@[simp] theorem setProc_hist (p : ProcState) : (s.setProc p).hist = s.hist := rfl
@[simp] theorem setProc_fault (p : ProcState) : (s.setProc p).fault = s.fault := rfl
@[simp] theorem setProc_io (p : ProcState) : (s.setProc p).io = s.io := rfl

/-! `setInRun`. -/

@[simp] theorem setInRun_cfg (b : Bool) : (s.setInRun b).cfg = s.cfg := rfl
@[simp] theorem setInRun_mem (b : Bool) : (s.setInRun b).mem = s.mem := rfl
@[simp] theorem setInRun_icu (b : Bool) : (s.setInRun b).icu = s.icu := rfl
@[simp] theorem setInRun_timer (b : Bool) : (s.setInRun b).timer = s.timer := rfl
@[simp] theorem setInRun_btdmp (b : Bool) : (s.setInRun b).btdmp = s.btdmp := rfl
@[simp] theorem setInRun_c2d (b : Bool) : (s.setInRun b).c2d = s.c2d := rfl
@[simp] theorem setInRun_d2c (b : Bool) : (s.setInRun b).d2c = s.d2c := rfl
@[simp] theorem setInRun_dma (b : Bool) : (s.setInRun b).dma = s.dma := rfl
@[simp] theorem setInRun_ahbm (b : Bool) : (s.setInRun b).ahbm = s.ahbm := rfl
@[simp] theorem setInRun_proc (b : Bool) : (s.setInRun b).proc = s.proc := rfl
@[simp] theorem setInRun_eng (b : Bool) : (s.setInRun b).eng = { s.eng with inRun := b } := rfl
@[simp] theorem setInRun_steps (b : Bool) : (s.setInRun b).steps = s.steps := rfl
@[simp] theorem setInRun_hist (b : Bool) : (s.setInRun b).hist = s.hist := rfl
@[simp] theorem setInRun_fault (b : Bool) : (s.setInRun b).fault = s.fault := rfl
@[simp] theorem setInRun_io (b : Bool) : (s.setInRun b).io = s.io := rfl

/-! `setInHandler`. -/

@[simp] theorem setInHandler_cfg (b : Bool) : (s.setInHandler b).cfg = s.cfg := rfl
@[simp] theorem setInHandler_mem (b : Bool) : (s.setInHandler b).mem = s.mem := rfl
@[simp] theorem setInHandler_icu (b : Bool) : (s.setInHandler b).icu = s.icu := rfl
@[simp] theorem setInHandler_timer (b : Bool) : (s.setInHandler b).timer = s.timer := rfl
@[simp] theorem setInHandler_btdmp (b : Bool) : (s.setInHandler b).btdmp = s.btdmp := rfl
@[simp] theorem setInHandler_c2d (b : Bool) : (s.setInHandler b).c2d = s.c2d := rfl
@[simp] theorem setInHandler_d2c (b : Bool) : (s.setInHandler b).d2c = s.d2c := rfl
@[simp] theorem setInHandler_dma (b : Bool) : (s.setInHandler b).dma = s.dma := rfl
@[simp] theorem setInHandler_ahbm (b : Bool) : (s.setInHandler b).ahbm = s.ahbm := rfl
@[simp] theorem setInHandler_proc (b : Bool) : (s.setInHandler b).proc = s.proc := rfl
@[simp] theorem setInHandler_eng (b : Bool) : (s.setInHandler b).eng = { s.eng with inHandler := b } := rfl
@[simp] theorem setInHandler_steps (b : Bool) : (s.setInHandler b).steps = s.steps := rfl
@[simp] theorem setInHandler_hist (b : Bool) : (s.setInHandler b).hist = s.hist := rfl
@[simp] theorem setInHandler_fault (b : Bool) : (s.setInHandler b).fault = s.fault := rfl
@[simp] theorem setInHandler_io (b : Bool) : (s.setInHandler b).io = s.io := rfl

/-! `setSteps`. -/

@[simp] theorem setSteps_cfg (n : Nat) : (s.setSteps n).cfg = s.cfg := rfl
@[simp] theorem setSteps_mem (n : Nat) : (s.setSteps n).mem = s.mem := rfl
@[simp] theorem setSteps_icu (n : Nat) : (s.setSteps n).icu = s.icu := rfl
@[simp] theorem setSteps_timer (n : Nat) : (s.setSteps n).timer = s.timer := rfl
@[simp] theorem setSteps_btdmp (n : Nat) : (s.setSteps n).btdmp = s.btdmp := rfl
@[simp] theorem setSteps_c2d (n : Nat) : (s.setSteps n).c2d = s.c2d := rfl
@[simp] theorem setSteps_d2c (n : Nat) : (s.setSteps n).d2c = s.d2c := rfl
@[simp] theorem setSteps_dma (n : Nat) : (s.setSteps n).dma = s.dma := rfl
@[simp] theorem setSteps_ahbm (n : Nat) : (s.setSteps n).ahbm = s.ahbm := rfl
@[simp] theorem setSteps_proc (n : Nat) : (s.setSteps n).proc = s.proc := rfl
@[simp] theorem setSteps_eng (n : Nat) : (s.setSteps n).eng = s.eng := rfl
@[simp] theorem setSteps_steps (n : Nat) : (s.setSteps n).steps = n := rfl
@[simp] theorem setSteps_hist (n : Nat) : (s.setSteps n).hist = s.hist := rfl
@[simp] theorem setSteps_fault (n : Nat) : (s.setSteps n).fault = s.fault := rfl
@[simp] theorem setSteps_io (n : Nat) : (s.setSteps n).io = s.io := rfl

/-! `emit`. -/

@[simp] theorem emit_cfg (e : Event) : (s.emit e).cfg = s.cfg := rfl
@[simp] theorem emit_mem (e : Event) : (s.emit e).mem = s.mem := rfl
@[simp] theorem emit_icu (e : Event) : (s.emit e).icu = s.icu := rfl
@[simp] theorem emit_timer (e : Event) : (s.emit e).timer = s.timer := rfl
@[simp] theorem emit_btdmp (e : Event) : (s.emit e).btdmp = s.btdmp := rfl
@[simp] theorem emit_c2d (e : Event) : (s.emit e).c2d = s.c2d := rfl
@[simp] theorem emit_d2c (e : Event) : (s.emit e).d2c = s.d2c := rfl
@[simp] theorem emit_dma (e : Event) : (s.emit e).dma = s.dma := rfl
@[simp] theorem emit_ahbm (e : Event) : (s.emit e).ahbm = s.ahbm := rfl
@[simp] theorem emit_proc (e : Event) : (s.emit e).proc = s.proc := rfl
@[simp] theorem emit_eng (e : Event) : (s.emit e).eng = s.eng := rfl
@[simp] theorem emit_steps (e : Event) : (s.emit e).steps = s.steps := rfl
@[simp] theorem emit_hist (e : Event) : (s.emit e).hist = s.hist ++ [e] := rfl
@[simp] theorem emit_fault (e : Event) : (s.emit e).fault = s.fault := rfl
@[simp] theorem emit_io (e : Event) : (s.emit e).io = s.io := rfl

/-! `setIo`. -/

@[simp] theorem setIo_cfg (p : Ports) : (s.setIo p).cfg = s.cfg := rfl
@[simp] theorem setIo_mem (p : Ports) : (s.setIo p).mem = s.mem := rfl
@[simp] theorem setIo_icu (p : Ports) : (s.setIo p).icu = s.icu := rfl
@[simp] theorem setIo_timer (p : Ports) : (s.setIo p).timer = s.timer := rfl
@[simp] theorem setIo_btdmp (p : Ports) : (s.setIo p).btdmp = s.btdmp := rfl
@[simp] theorem setIo_c2d (p : Ports) : (s.setIo p).c2d = s.c2d := rfl
@[simp] theorem setIo_d2c (p : Ports) : (s.setIo p).d2c = s.d2c := rfl
@[simp] theorem setIo_dma (p : Ports) : (s.setIo p).dma = s.dma := rfl
@[simp] theorem setIo_ahbm (p : Ports) : (s.setIo p).ahbm = s.ahbm := rfl
@[simp] theorem setIo_proc (p : Ports) : (s.setIo p).proc = s.proc := rfl
@[simp] theorem setIo_eng (p : Ports) : (s.setIo p).eng = s.eng := rfl
@[simp] theorem setIo_steps (p : Ports) : (s.setIo p).steps = s.steps := rfl
@[simp] theorem setIo_hist (p : Ports) : (s.setIo p).hist = s.hist := rfl
@[simp] theorem setIo_fault (p : Ports) : (s.setIo p).fault = s.fault := rfl
@[simp] theorem setIo_io (p : Ports) : (s.setIo p).io = p := rfl

/-! `raise`. -/

@[simp] theorem raise_cfg (c : FaultCode) : (s.raise c).cfg = s.cfg := rfl
@[simp] theorem raise_mem (c : FaultCode) : (s.raise c).mem = s.mem := rfl
@[simp] theorem raise_icu (c : FaultCode) : (s.raise c).icu = s.icu := rfl
@[simp] theorem raise_timer (c : FaultCode) : (s.raise c).timer = s.timer := rfl
@[simp] theorem raise_btdmp (c : FaultCode) : (s.raise c).btdmp = s.btdmp := rfl
@[simp] theorem raise_c2d (c : FaultCode) : (s.raise c).c2d = s.c2d := rfl
@[simp] theorem raise_d2c (c : FaultCode) : (s.raise c).d2c = s.d2c := rfl
@[simp] theorem raise_dma (c : FaultCode) : (s.raise c).dma = s.dma := rfl
@[simp] theorem raise_ahbm (c : FaultCode) : (s.raise c).ahbm = s.ahbm := rfl
@[simp] theorem raise_proc (c : FaultCode) : (s.raise c).proc = s.proc := rfl
@[simp] theorem raise_eng (c : FaultCode) : (s.raise c).eng = s.eng := rfl
@[simp] theorem raise_steps (c : FaultCode) : (s.raise c).steps = s.steps := rfl
@[simp] theorem raise_hist (c : FaultCode) : (s.raise c).hist = s.hist ++ [.faultEv c] := rfl
@[simp] theorem raise_io (c : FaultCode) : (s.raise c).io = s.io := rfl

/-- The first fault of a block is recorded (R111). -/
theorem raise_fault_first {s : State} (h : s.fault = none) (c : FaultCode) : (s.raise c).fault = some c := by
  simp [State.raise, h]

/-- A fault once recorded stays (R111). -/
theorem raise_fault_kept {s : State} {d : FaultCode} (h : s.fault = some d) (c : FaultCode) :
    (s.raise c).fault = some d := by
  simp [State.raise, h]

end Sys2Proof.Machine
end

