-- ==== Sys2Proof/Laws/Tables.lean ====
section
/-! SUPPORT. Reading after writing in the tables of Machine/Ops, and the Apbp, timer and Btdmp updates of Machine/Flags
field by field. -/

namespace Sys2Proof.Machine

variable {α : Type}

@[simp] theorem vecGet_vecSet_self (t : Vector α 16) (v : Vec) (a : α) : vecGet (vecSet t v a) v = a := by
  simp [vecGet, vecSet]

theorem vecGet_vecSet_ne (t : Vector α 16) {v w : Vec} (a : α) (h : w ≠ v) :
    vecGet (vecSet t v a) w = vecGet t w := by
  have : v.toNat ≠ w.toNat := fun e => h (BitVec.eq_of_toNat_eq e.symm)
  simp [vecGet, vecSet, Vector.getElem_set_ne, this]

@[simp] theorem vecSet_vecSet (t : Vector α 16) (v : Vec) (a b : α) : vecSet (vecSet t v a) v b = vecSet t v b := by
  simp [vecSet]

theorem vecSet_eq_self {t : Vector α 16} {v : Vec} {a : α} (h : vecGet t v = a) : vecSet t v a = t := by
  subst h; simp [vecSet, vecGet]

@[simp] theorem vecGet_replicate (a : α) (v : Vec) : vecGet (Vector.replicate 16 a) v = a := by
  simp [vecGet]

@[simp] theorem vecGet_idle (v : Vec) : vecGet Icu.idle v = false := by simp [Icu.idle]

@[simp] theorem PerUnit.get_set_self (p : PerUnit α) (k : UnitId) (a : α) : (p.set k a).get k = a := by
  cases k <;> rfl

theorem PerUnit.get_set_ne (p : PerUnit α) {k j : UnitId} (a : α) (h : j ≠ k) : (p.set k a).get j = p.get j := by
  cases k <;> cases j <;> first | rfl | exact absurd rfl h

@[simp] theorem PerUnit.set_set (p : PerUnit α) (k : UnitId) (a b : α) : (p.set k a).set k b = p.set k b := by
  cases k <;> rfl

@[simp] theorem PerSlot.get_set_self (p : PerSlot α) (i : Slot) (a : α) : (p.set i a).get i = a := by
  cases i <;> rfl

theorem PerSlot.get_set_ne (p : PerSlot α) {i j : Slot} (a : α) (h : j ≠ i) : (p.set i a).get j = p.get j := by
  cases i <;> cases j <;> first | rfl | exact absurd rfl h

@[simp] theorem Apbp.fill_dataH (p : Apbp) (i : Slot) (x : Half) : (p.fill i x).dataH = p.dataH := rfl
@[simp] theorem Apbp.fill_semH (p : Apbp) (i : Slot) (x : Half) : (p.fill i x).semH = p.semH := rfl
@[simp] theorem Apbp.consume_dataH (p : Apbp) (i : Slot) : (p.consume i).dataH = p.dataH := rfl
@[simp] theorem Apbp.consume_semH (p : Apbp) (i : Slot) : (p.consume i).semH = p.semH := rfl
@[simp] theorem Apbp.fillSem_dataH (p : Apbp) (x : Half) : (p.fillSem x).dataH = p.dataH := rfl
@[simp] theorem Apbp.fillSem_semH (p : Apbp) (x : Half) : (p.fillSem x).semH = p.semH := rfl
@[simp] theorem Apbp.consumeSem_dataH (p : Apbp) : p.consumeSem.dataH = p.dataH := rfl
@[simp] theorem Apbp.consumeSem_semH (p : Apbp) : p.consumeSem.semH = p.semH := rfl
@[simp] theorem Timer.start_running (p : Word) : (Timer.start p).running = true := rfl
@[simp] theorem Timer.start_period (p : Word) : (Timer.start p).period = p := rfl
@[simp] theorem Timer.start_counter (p : Word) : (Timer.start p).counter = p := rfl
@[simp] theorem Timer.stop_running (t : Timer) : t.stop.running = false := rfl
@[simp] theorem Timer.stop_period (t : Timer) : t.stop.period = t.period := rfl
@[simp] theorem Timer.stop_counter (t : Timer) : t.stop.counter = t.counter := rfl

end Sys2Proof.Machine
end

