-- ==== Sys2Proof/Laws/Ops.lean ====
section
/-! SUPPORT. One lemma for each shared operation, saying what it does, so that no later proof unfolds it. -/

namespace Sys2Proof.Machine

/-! How pieces of a transaction follow one another. -/

@[simp] theorem Eff.bind_done {α β : Type} (a : α) (s : State) (k : α → State → Eff β) :
    (Eff.done a s).bind k = k a s := rfl

@[simp] theorem Eff.bind_raised {α β : Type} (s : State) (k : α → State → Eff β) :
    (Eff.raised s : Eff α).bind k = .raised s := rfl

@[simp] theorem Eff.bind_stopped {α β : Type} (f : Fault) (k : α → State → Eff β) :
    (Eff.stopped f : Eff α).bind k = .stopped f := rfl

@[simp] theorem Eff.outcome_done (a : Unit) (s : State) : (Eff.done a s).outcome = .next s := rfl
@[simp] theorem Eff.outcome_raised (s : State) : (Eff.raised s : Eff Unit).outcome = .next s := rfl
@[simp] theorem Eff.outcome_stopped (f : Fault) : (Eff.stopped f : Eff Unit).outcome = .fault f := rfl

theorem transact_ok {s : State} (h : s.fault = none) (body : State → Eff Unit) :
    transact body s = (body s).outcome := by
  simp [transact, h]

theorem transact_faulted {s : State} {c : FaultCode} (h : s.fault = some c) (body : State → Eff Unit) :
    transact body s = .next s := by
  simp [transact, h]

/-! Raising a fault. -/

theorem raise_eq_withFault {s : State} (h : s.fault = none) (c : FaultCode) : s.raise c = s.withFault c := by
  simp [State.raise, State.withFault, h]

/-! Delivery. -/

theorem deliver_eq (k : Delivery) (v : Vec) (s : State) :
    deliver k v s = { s with hist := s.hist ++ [.deliver k v], proc := Config.procSignal s.proc k v } := rfl

theorem callHost_eq (t : Half) (src : Source) (s : State) :
    callHost t src s = { s with hist := s.hist ++ [.hostCb t src] } := rfl

theorem routed_eq (v : Vec) (s : State) :
    routed v s = { s with
      hist := s.hist ++ [answerEvent v (vecGet s.icu.route v)]
      proc := signalled s.proc v (vecGet s.icu.route v) } := by
  unfold routed
  cases h : vecGet s.icu.route v <;> rfl

/-- A trigger of a vector that is not being triggered (R56). -/
theorem trigger_eq {v : Vec} {s : State} (h : vecGet s.icu.active v = false) :
    trigger v s = .done () (s.afterTrigger v) := by
  have hs : vecSet s.icu.active v false = s.icu.active := vecSet_eq_self h
  simp only [trigger, h, Bool.false_eq_true, if_false, routed_eq]
  simp [State.setActive, State.emit, State.afterTrigger, hs]

/-- A trigger of a vector that is being triggered (R56). -/
theorem trigger_reentrant {v : Vec} {s : State} (h : vecGet s.icu.active v = true) :
    trigger v s = .raised (s.raise .reentrantTrigger) := by
  simp [trigger, h]

/-- The call of a handler whose vector, if it has one, is not being triggered (R55). -/
theorem callHandler_eq {h : Handler} {s : State} (hm : s.mayCall h = true) (src : Source) :
    callHandler h src s = .done () (s.afterHandler h src) := by
  cases h with
  | none => rfl
  | host t => rfl
  | icu v => exact trigger_eq (by simpa [State.mayCall] using hm)

/-- The call of a handler whose vector is being triggered (R55, R56). -/
theorem callHandler_reentrant {h : Handler} {s : State} (hm : s.mayCall h = false) (src : Source) :
    callHandler h src s = .raised (s.raise .reentrantTrigger) := by
  cases h with
  | none => simp [State.mayCall] at hm
  | host t => simp [State.mayCall] at hm
  | icu v => exact trigger_reentrant (by simpa [State.mayCall] using hm)

section afterTrigger
variable (s : State) (v : Vec)
@[simp] theorem afterTrigger_cfg : (s.afterTrigger v).cfg = s.cfg := rfl
@[simp] theorem afterTrigger_mem : (s.afterTrigger v).mem = s.mem := rfl
@[simp] theorem afterTrigger_icu : (s.afterTrigger v).icu = s.icu := rfl
@[simp] theorem afterTrigger_timer : (s.afterTrigger v).timer = s.timer := rfl
@[simp] theorem afterTrigger_btdmp : (s.afterTrigger v).btdmp = s.btdmp := rfl
@[simp] theorem afterTrigger_c2d : (s.afterTrigger v).c2d = s.c2d := rfl
@[simp] theorem afterTrigger_d2c : (s.afterTrigger v).d2c = s.d2c := rfl
@[simp] theorem afterTrigger_dma : (s.afterTrigger v).dma = s.dma := rfl
@[simp] theorem afterTrigger_ahbm : (s.afterTrigger v).ahbm = s.ahbm := rfl
@[simp] theorem afterTrigger_eng : (s.afterTrigger v).eng = s.eng := rfl
@[simp] theorem afterTrigger_steps : (s.afterTrigger v).steps = s.steps := rfl
@[simp] theorem afterTrigger_fault : (s.afterTrigger v).fault = s.fault := rfl
@[simp] theorem afterTrigger_io : (s.afterTrigger v).io = s.io := rfl
@[simp] theorem afterTrigger_hist :
    (s.afterTrigger v).hist = s.hist ++ [.raise v, answerEvent v (vecGet s.icu.route v)] := rfl
end afterTrigger

/-! Memory. -/

/-- SharedMemory has at least one byte (R7). -/
theorem shmemSize_pos (c : Params) : 0 < c.shmemSize := Nat.succ_pos _

/-- Under `Periodic` the reset value of `aux` is the unit value (R7, R96). -/
theorem btdmpAuxReset_periodic {c : Params} (h : c.btdmpPolicy = .periodic) : c.btdmpAuxReset = Config.btdmpAuxUnit := by
  simp [Params.btdmpAuxReset, h, BtdmpPolicy.auxReset]

theorem memRead_eq {a : Nat} {s : State} (h : a < s.cfg.shmemSize) : memRead a s = .done (s.mem.get a) s := by
  simp [memRead, h]

theorem memRead_outside {a : Nat} {s : State} (h : s.cfg.shmemSize ≤ a) : memRead a s = .raised (s.raise .memRange) := by
  simp [memRead, Nat.not_lt.mpr h]

theorem memWrite_eq {a : Nat} {s : State} (h : a < s.cfg.shmemSize) (b : Byte) :
    memWrite a b s = .done () (s.setMem (s.mem.put a b)) := by
  simp [memWrite, h]

theorem memWrite_outside {a : Nat} {s : State} (h : s.cfg.shmemSize ≤ a) (b : Byte) :
    memWrite a b s = .raised (s.raise .memRange) := by
  simp [memWrite, Nat.not_lt.mpr h]

/-! Free values: a draw changes the ports alone. -/

theorem drawByte_state (s : State) : ∃ p, (drawByte s).2 = s.setIo p := by
  unfold drawByte; split <;> exact ⟨_, rfl⟩

theorem drawMove_state (s : State) : ∃ p, (drawMove s).2 = s.setIo p := by
  unfold drawMove; split <;> exact ⟨_, rfl⟩

theorem drawByte_answer {s : State} {b : Byte} {rest : List Byte} (h : s.io.answers = b :: rest) :
    drawByte s = (b, s.setIo { s.io with answers := rest }) := by
  simp [drawByte, h]

theorem drawMove_script {s : State} {m : Option ProcMove} {rest : List (Option ProcMove)} (h : s.io.script = m :: rest) :
    drawMove s = (m, s.setIo { s.io with script := rest }) := by
  simp [drawMove, h]

/-! Operand forms. -/

/-- The slot of an index is one of the three, and index 3 has none (R47). -/
theorem slotOf_eq_none_iff (i : BitVec 2) : slotOf i = none ↔ i = 3 := by
  revert i; decide

theorem withSlot_eq {α : Type} {i : BitVec 2} {k : Slot} (h : slotOf i = some k) (body : Slot → State → Eff α) (s : State) :
    withSlot i body s = body k s := by
  simp [withSlot, h]

theorem withSlot_index {α : Type} (body : Slot → State → Eff α) (s : State) :
    withSlot 3 body s = .raised (s.raise .index) := rfl

/-- The firing rule leaves a disabled unit alone under every policy (R95). -/
theorem fireStep_disabled {u : Btdmp} (h : u.enabled = false) (p : BtdmpPolicy) : fireStep p u = (u, false) := by
  simp [fireStep, h]

/-- An enabled unit under the reference policy counts (R96). -/
theorem fireStep_periodic {u : Btdmp} (h : u.enabled = true) : fireStep .periodic u = periodicFire u := by
  simp [fireStep, h]

/-! The timers' range. -/

/-- A timer is in range when, if it runs, its counter is between 1 and its period (R65). -/
theorem Timer.wf_iff (t : Timer) :
    t.wf = true ↔ (t.running = true → 1 ≤ t.counter.toNat ∧ t.counter.toNat ≤ t.period.toNat) := by
  cases h : t.running <;> simp [Timer.wf, h]

/-- Both timers are in range, by unit. -/
theorem timersWf_iff (s : State) : s.timersWf = true ↔ ∀ k, (s.timer.get k).wf = true := by
  constructor
  · intro h k
    simp only [State.timersWf, Bool.and_eq_true] at h
    cases k <;> simp [PerUnit.get, h]
  · intro h
    simpa [State.timersWf, PerUnit.get] using And.intro (h .u0) (h .u1)

/-- Writing a timer in range keeps both in range. -/
theorem setTimer_timersWf {s : State} (h : s.timersWf = true) {k : UnitId} {t : Timer} (ht : t.wf = true) :
    (s.setTimer k t).timersWf = true := by
  rw [timersWf_iff] at h ⊢
  intro j
  by_cases hj : j = k
  · subst hj; simpa using ht
  · simpa [PerUnit.get_set_ne _ _ hj] using h j

end Sys2Proof.Machine
end

