-- ==== Sys2Proof/Laws/Exec.lean ====
section
/-! SUPPORT. `exec` as one transaction over the operation's body, so that a proof need not name its meaning. -/

namespace Sys2Proof.Machine

/-- The body of each operation's transaction. -/
def execBody (i : Instr) : State → Eff Unit :=
  match i with
  | .reset => fun s => .done () ((drawProcReset (resetBlock s)).emit .resetDone)
  | .run n => fun s =>
    if s.eng.inRun || s.eng.inHandler then .raised (s.raise .reentrantRun)
    else endRun (runSteps n.toNat (s.setInRun true))
  | .hostMemRead a => portRead .host a
  | .hostMemWrite b a => memWrite (effAddr a) b
  | .sendDataIsEmpty i => fun s => (apbpIsReady .c2d i s).bind fun b s => giveResult .host (boolResult !b) s
  | .sendData i x => apbpSend .c2d i x
  | .recvDataIsReady i => fun s => (apbpIsReady .d2c i s).bind fun b s => giveResult .host (boolResult b) s
  | .recvData i => fun s => (apbpRecv .d2c i s).bind fun x s => giveResult .host x.toNat s
  | .setRecvDataHandler i t =>
    withSlot i fun k s => .done () (s.setD2c { s.d2c with dataH := s.d2c.dataH.set k (.host t) })
  | .setSemaphore x => apbpSetSem .c2d x
  | .getSemaphore => fun s => (apbpGetSem .d2c s).bind fun x s => giveResult .host x.toNat s
  | .setSemaphoreHandler t => fun s => .done () (s.setD2c { s.d2c with semH := .host t })
  | .setAhbmCallback t => fun s => .done () (s.setAhbm t)
  | .dspSendData i x => dspSendData i x
  | .dspRecvData i => dspRecvData i
  | .dspIsDataReady i => dspIsDataReady i
  | .dspOutIsReady i => dspOutIsReady i
  | .dspSetSemaphore x => dspSetSemaphore x
  | .dspGetSemaphore => dspGetSemaphore
  | .dmaStart dir a e len => dmaStart dir a e len
  | .timerCfg k en p => timerCfg k en p
  | .btdmpCfg k en q => btdmpCfg k en q
  | .icuSetRoute v r => icuSetRoute v r
  | .dspMemRead a => dspMemRead a
  | .dspMemWrite b a => dspMemWrite b a
  | .triggerSingle v => trigger v
  | .procStep => procStep
  | .timerTick k => timerTick k
  | .btdmpTick k => btdmpTick k
  | .extRead8 a => fun s => (extRead8 a s).bind fun b s => .done () (s.setIo { s.io with extReply := some b })
  | .extWrite8 b a => extWrite8 a b

theorem exec_eq_transact (i : Instr) (s : State) : exec i s = transact (execBody i) s := by cases i <;> rfl

/-- On a block without a fault an operation is its body. -/
theorem exec_eq_body {s : State} (h : s.fault = none) (i : Instr) : exec i s = (execBody i s).outcome := by
  rw [exec_eq_transact, transact_ok h]

/-- A Processor operation's body is the action a Processor step issues (R100). -/
theorem action_eq_body {i : Instr} (h : i.agent = .processor) (s : State) : action i s = execBody i s := by
  cases i <;> first | rfl | exact absurd h (by decide) | (cases h)

/-- An operation of another agent, among the Processor's actions (R50). -/
theorem action_of_other_agent {i : Instr} (h : i.agent ≠ .processor) (s : State) :
    action i s = .raised (s.raise .agent) := by
  cases i <;> first | rfl | exact absurd rfl h

/-! The Processor step, by the first of the moves already drawn (R100). -/

/-- The state in which a Processor step draws its first move. -/
def State.stepBegun (s : State) : State := (s.setSteps (s.steps + 1)).emit (.stepBegin (s.steps + 1))

/-- The loop of a Processor step behind a move already drawn. -/
theorem procMoves_script {n : Nat} {m : Option ProcMove} {rest : List (Option ProcMove)} {s : State}
    (h : s.io.script = m :: rest) :
    procMoves (n + 1) s =
      match m with
      | none => .stopped .processorNoMove
      | some (.done p) => .done () ((s.setIo { s.io with script := rest }).setProc p)
      | some (.act p a) =>
        (actionWords a ((s.setIo { s.io with script := rest }).setProc p)).bind fun _ s => procMoves n s := by
  rw [procMoves, drawMove_script h]
  cases m with
  | none => rfl
  | some m => cases m <;> rfl

/-- A Processor step waits at least for the moves already drawn. -/
theorem procStep_script {m : Option ProcMove} {rest : List (Option ProcMove)} {s : State} (h : s.io.script = m :: rest) :
    procStep s = procMoves (Config.procPatience s.io.draws + rest.length + 1) s.stepBegun := by
  simp [procStep, patience, State.stepBegun, h, Nat.add_assoc]

end Sys2Proof.Machine
end

