-- ==== Sys2Proof/Laws/Memory.lean ====
section
/-! SUPPORT. The canonical form of SharedMemory: the one write keeps it, and a read after a write. -/

namespace Sys2Proof.Machine

theorem Memory.above_trans {a a' : Nat} (h : a < a') {m : Memory} (hm : Memory.above a' m = true) :
    Memory.above a m = true := by
  cases m with
  | nil => rfl
  | cons c m => simp only [Memory.above, decide_eq_true_eq] at *; omega

/-- An address below a canonical memory's first is not listed. -/
theorem Memory.get_of_above {m : Memory} {a : Nat} (h : Memory.above a m = true) (hm : Memory.wf m = true) :
    m.get a = Memory.unlisted := by
  induction m with
  | nil => rfl
  | cons c m ih =>
    obtain ⟨a', b'⟩ := c
    simp only [Memory.above, decide_eq_true_eq] at h
    simp only [Memory.wf, Bool.and_eq_true] at hm
    rw [Memory.get, if_neg (by omega)]
    exact ih (Memory.above_trans h hm.1.2) hm.2

theorem Memory.cons_wf {a : Nat} {b : Byte} {m : Memory} (h : Memory.above a m = true) (hm : Memory.wf m = true) :
    Memory.wf (Memory.cons a b m) = true := by
  unfold Memory.cons
  split
  · exact hm
  · rename_i hb; simp [Memory.wf, hm, h, hb]

theorem Memory.cons_above {c a : Nat} {b : Byte} {m : Memory} (h : c < a) (hm : Memory.above c m = true) :
    Memory.above c (Memory.cons a b m) = true := by
  unfold Memory.cons
  split
  · exact hm
  · simpa [Memory.above] using h

theorem Memory.put_above {c a : Nat} {b : Byte} {m : Memory} (h : c < a) (hm : Memory.above c m = true)
    (hw : Memory.wf m = true) : Memory.above c (Memory.put m a b) = true := by
  cases m with
  | nil => exact Memory.cons_above h rfl
  | cons d m =>
    obtain ⟨a', b'⟩ := d
    simp only [Memory.wf, Bool.and_eq_true] at hw
    have hc : c < a' := by simpa [Memory.above] using hm
    rw [Memory.put]
    split
    · exact Memory.cons_above h hm
    · split
      · exact Memory.cons_above h (Memory.above_trans hc hw.1.2)
      · simpa [Memory.above] using hc

/-- A write keeps the canonical form. -/
theorem Memory.put_wf {m : Memory} (hm : Memory.wf m = true) (a : Nat) (b : Byte) :
    Memory.wf (Memory.put m a b) = true := by
  induction m with
  | nil => exact Memory.cons_wf rfl rfl
  | cons d m ih =>
    obtain ⟨a', b'⟩ := d
    have hw := hm
    simp only [Memory.wf, Bool.and_eq_true] at hw
    rw [Memory.put]
    split
    · exact Memory.cons_wf (by simpa [Memory.above]) hm
    · split
      · rename_i _ h; subst h; exact Memory.cons_wf hw.1.2 hw.2
      · rename_i h1 h2
        simp only [Memory.wf, Bool.and_eq_true]
        exact ⟨⟨hw.1.1, Memory.put_above (by omega) hw.1.2 hw.2⟩, ih hw.2⟩

theorem Memory.get_cons_self {m : Memory} {a : Nat} (b : Byte) (h : Memory.above a m = true)
    (hm : Memory.wf m = true) : (Memory.cons a b m).get a = b := by
  unfold Memory.cons
  split
  · rename_i hb; rw [hb, Memory.get_of_above h hm]
  · simp [Memory.get]

theorem Memory.get_cons_ne {m : Memory} {a c : Nat} (b : Byte) (h : c ≠ a) : (Memory.cons a b m).get c = m.get c := by
  unfold Memory.cons
  split
  · rfl
  · simp [Memory.get, h]

/-- A read of the address written gives the byte written. -/
theorem Memory.get_put_self {m : Memory} (hm : Memory.wf m = true) (a : Nat) (b : Byte) : (m.put a b).get a = b := by
  induction m with
  | nil => exact Memory.get_cons_self b rfl rfl
  | cons d m ih =>
    obtain ⟨a', b'⟩ := d
    have hw := hm
    simp only [Memory.wf, Bool.and_eq_true] at hw
    rw [Memory.put]
    split
    · exact Memory.get_cons_self b (by simpa [Memory.above]) hm
    · split
      · rename_i _ h; subst h; exact Memory.get_cons_self b hw.1.2 hw.2
      · rename_i h1 h2
        rw [Memory.get, if_neg h2]; exact ih hw.2

/-- A read of another address gives what it gave before. -/
theorem Memory.get_put_ne (m : Memory) {a c : Nat} (b : Byte) (h : c ≠ a) : (m.put a b).get c = m.get c := by
  induction m with
  | nil => exact Memory.get_cons_ne b h
  | cons d m ih =>
    obtain ⟨a', b'⟩ := d
    rw [Memory.put]
    split
    · exact Memory.get_cons_ne b h
    · split
      · rename_i _ ha; subst ha
        rw [Memory.get_cons_ne b h, Memory.get, if_neg h]
      · simp only [Memory.get, ih]

theorem Memory.cons_below {n a : Nat} {b : Byte} {m : Memory} (h : a < n) (hm : m.below n = true) :
    (Memory.cons a b m).below n = true := by
  unfold Memory.cons
  split
  · exact hm
  · simpa [Memory.below, h] using hm

/-- A write inside SharedMemory lists no address outside it. -/
theorem Memory.put_below {n : Nat} {m : Memory} (hm : m.below n = true) {a : Nat} (h : a < n) (b : Byte) :
    (m.put a b).below n = true := by
  induction m with
  | nil => exact Memory.cons_below h rfl
  | cons d m ih =>
    obtain ⟨a', b'⟩ := d
    have hw : a' < n ∧ Memory.below n m = true := by simpa [Memory.below] using hm
    rw [Memory.put]
    split
    · exact Memory.cons_below h hm
    · split
      · exact Memory.cons_below h hw.2
      · simpa [Memory.below, hw.1] using ih hw.2

end Sys2Proof.Machine
end

