-- ==== Sys2Proof/Laws/Moves.lean ====
section
/-! SUPPORT. What a transaction can do, said once: it is a path of the elementary moves below, and perhaps a raised fault
at its end (`exec_reaches`, `step_reaches`). An invariant is then shown move by move. -/

namespace Sys2Proof.Machine

/-- The vector of a handler wired to the ICU in either Apbp instance. -/
def State.handlerVec (s : State) (v : Vec) : Prop :=
  ∃ c : Chan, (∃ k, (s.apbp c).dataH.get k = .icu v) ∨ (s.apbp c).semH = .icu v

/-- The operation runs the Processor. -/
def RunsProc (op : Instr) : Prop := op = .procStep ∨ ∃ n, op = .run n

/-- The operation is the Processor's or the engine's, or is `RUN`. -/
def Inner (op : Instr) : Prop := op.agent ≠ .host ∨ ∃ n, op = .run n

theorem RunsProc.inner {op : Instr} (h : RunsProc op) : Inner op := by
  obtain rfl | h := h
  · exact .inl (by decide)
  · exact .inr h

/-- The elementary completed changes of the state, each with the operations `op` that can make it. -/
inductive Move (op : Instr) (s : State) : State → Prop where
  | trigger (v : Vec) (hv : op = .triggerSingle v ∨ v ∈ wiredVecs ∨ s.handlerVec v) (h : vecGet s.icu.active v = false) :
      Move op s (s.afterTrigger v)
  | hostCb (t : Half) (src : Source) : Move op s (s.emit (.hostCb t src))
  | extRd (a : Word) (b : Byte) : Move op s (s.emit (.extRd a b))
  | extWr (a : Word) (b : Byte) : Move op s (s.emit (.extWr a b))
  | result (who : Agent) (x : Nat) : Move op s (s.emit (.result who x))
  | stepBegin (ho : RunsProc op) : Move op s ((s.setSteps (s.steps + 1)).emit (.stepBegin (s.steps + 1)))
  | proc (p : ProcState) (ho : RunsProc op) : Move op s (s.setProc p)
  | ports (p : Ports) (h : p.calls = s.io.calls) (hs : p.script = s.io.script ∨ RunsProc op) : Move op s (s.setIo p)
  | mem (a : Nat) (b : Byte) (h : a < s.cfg.shmemSize) : Move op s (s.setMem (s.mem.put a b))
  | route (v : Vec) (r : Route) (ho : (∃ v r, op = .icuSetRoute v r) ∨ RunsProc op) : Move op s (s.setRoute v r)
  | timerStart (k : UnitId) (p : Word) (ho : Inner op) (h : p ≠ 0) : Move op s (s.setTimer k (Timer.start p))
  | timerStop (k : UnitId) (ho : Inner op) : Move op s (s.setTimer k (s.timer.get k).stop)
  | timerCount (k : UnitId) (ho : Inner op) (hr : (s.timer.get k).running = true) (h : (s.timer.get k).counter - 1 ≠ 0) :
      Move op s (setCounter k ((s.timer.get k).counter - 1) s)
  | timerExpire (k : UnitId) (ho : Inner op) (hr : (s.timer.get k).running = true) (h : (s.timer.get k).counter - 1 = 0)
      (ha : vecGet s.icu.active (timerVec k) = false) :
      Move op s (setCounter k (s.timer.get k).period (s.afterTrigger (timerVec k)))
  | timerCaught (k : UnitId) (ho : Inner op) (hr : (s.timer.get k).running = true) (h : (s.timer.get k).counter - 1 = 0)
      (ha : vecGet s.icu.active (timerVec k) = true) : Move op s (setCounter k 0 s)
  | btdmpStart (k : UnitId) (q : Word) (ho : Inner op) : Move op s (s.setBtdmp k (btdmpStart (s.btdmp.get k) q))
  | btdmpStop (k : UnitId) (ho : Inner op) : Move op s (s.setBtdmp k (btdmpStop (s.btdmp.get k)))
  | btdmpFire (k : UnitId) (ho : Inner op) : Move op s (s.setBtdmp k (fireStep s.cfg.btdmpPolicy (s.btdmp.get k)).1)
  | apbp (c : Chan) (p : Apbp) (hd : p.dataH = (s.apbp c).dataH) (hs : p.semH = (s.apbp c).semH) :
      Move op s (s.setApbp c p)
  | dataHandler (k : Slot) (t : Half) (ho : ∃ j, op = .setRecvDataHandler j t) :
      Move op s (s.setD2c { s.d2c with dataH := s.d2c.dataH.set k (.host t) })
  | semHandler (t : Half) (ho : op = .setSemaphoreHandler t) : Move op s (s.setD2c { s.d2c with semH := .host t })
  | dma (d : Dma) (ho : Inner op) : Move op s (s.setDma d)
  | ahbm (t : Half) (ho : op = .setAhbmCallback t) : Move op s (s.setAhbm t)
  | inRun (b : Bool) (ho : ∃ n, op = .run n) : Move op s (s.setInRun b)
  | reset (ho : op = .reset) : Move op s ((drawProcReset (resetBlock s)).emit .resetDone)

/-- Moves one after another. -/
abbrev Path (op : Instr) : State → State → Prop := Relation.ReflTransGen (Move op)

/-- A piece of a transaction makes moves, and perhaps raises a fault after them. -/
def Reaches {α : Type} (op : Instr) (s : State) (e : Eff α) : Prop :=
  match e with
  | .done _ t => Path op s t
  | .raised t => ∃ u c, Path op s u ∧ t = u.raise c
  | .stopped _ => True

variable {α β : Type} {op : Instr} {s t : State}

theorem Move.reaches (h : Move op s t) (a : α) : Reaches op s (.done a t) := Relation.ReflTransGen.single h

theorem reaches_done (a : α) : Reaches op s (.done a s) := Relation.ReflTransGen.refl

theorem reaches_raise (c : FaultCode) : Reaches op s (.raised (s.raise c) : Eff α) :=
  ⟨s, c, Relation.ReflTransGen.refl, rfl⟩

theorem Reaches.after {e : Eff α} (h : Path op s t) (he : Reaches op t e) : Reaches op s e := by
  cases e with
  | done a u => exact h.trans he
  | raised u =>
    obtain ⟨w, c, hw, rfl⟩ := he
    exact ⟨w, c, h.trans hw, rfl⟩
  | stopped f => trivial

theorem Reaches.bind {e : Eff α} {k : α → State → Eff β} (he : Reaches op s e)
    (hk : ∀ a t, Reaches op t (k a t)) : Reaches op s (e.bind k) := by
  cases e with
  | done a t => exact Reaches.after he (hk a t)
  | raised t => exact he
  | stopped f => trivial

theorem handlerVec_data {c : Chan} {k : Slot} {v : Vec} (h : (s.apbp c).dataH.get k = .icu v) : s.handlerVec v :=
  ⟨c, .inl ⟨k, h⟩⟩

theorem handlerVec_sem {c : Chan} {v : Vec} (h : (s.apbp c).semH = .icu v) : s.handlerVec v := ⟨c, .inr h⟩

theorem trigger_reaches (v : Vec) (hv : op = .triggerSingle v ∨ v ∈ wiredVecs ∨ s.handlerVec v) : Reaches op s (trigger v s) := by
  cases h : vecGet s.icu.active v with
  | false => rw [trigger_eq h]; exact (Move.trigger v hv h).reaches ()
  | true => rw [trigger_reentrant h]; exact reaches_raise _

theorem callHandler_reaches (h : Handler) (src : Source)
    (hv : ∀ v, h = .icu v → op = .triggerSingle v ∨ v ∈ wiredVecs ∨ s.handlerVec v) : Reaches op s (callHandler h src s) := by
  cases h with
  | none => exact reaches_done ()
  | host t => exact (Move.hostCb t src).reaches ()
  | icu v => exact trigger_reaches v (hv v rfl)

theorem giveResult_reaches (who : Agent) (x : Nat) : Reaches op s (giveResult who x s) :=
  (Move.result who x).reaches ()

theorem withSlot_reaches (i : BitVec 2) {body : Slot → State → Eff α} (h : ∀ k, Reaches op s (body k s)) :
    Reaches op s (withSlot i body s) := by
  unfold withSlot
  cases slotOf i with
  | none => exact reaches_raise _
  | some k => exact h k

theorem memRead_reaches (a : Nat) : Reaches op s (memRead a s) := by
  unfold memRead; split
  · exact reaches_done _
  · exact reaches_raise _

theorem memWrite_reaches (a : Nat) (b : Byte) : Reaches op s (memWrite a b s) := by
  unfold memWrite; split
  · rename_i h; exact (Move.mem a b h).reaches ()
  · exact reaches_raise _

theorem drawByte_ports (s : State) :
    ∃ p, (drawByte s).2 = s.setIo p ∧ p.calls = s.io.calls ∧ p.script = s.io.script := by
  unfold drawByte; split <;> exact ⟨_, rfl, rfl, rfl⟩

theorem drawMove_calls (s : State) : ∃ p, (drawMove s).2 = s.setIo p ∧ p.calls = s.io.calls := by
  unfold drawMove; split <;> exact ⟨_, rfl, rfl⟩

/-! The channels. -/

@[simp] theorem apbp_setApbp (s : State) (c : Chan) (p : Apbp) : (s.setApbp c p).apbp c = p := by cases c <;> rfl

theorem apbpIsReady_reaches (c : Chan) (i : BitVec 2) : Reaches op s (apbpIsReady c i s) :=
  withSlot_reaches i fun _ => reaches_done _

theorem apbpRecv_reaches (c : Chan) (i : BitVec 2) : Reaches op s (apbpRecv c i s) :=
  withSlot_reaches i fun k => (Move.apbp c _ (Apbp.consume_dataH _ k) (Apbp.consume_semH _ k)).reaches _

theorem apbpGetSem_reaches (c : Chan) : Reaches op s (apbpGetSem c s) :=
  (Move.apbp c _ (Apbp.consumeSem_dataH _) (Apbp.consumeSem_semH _)).reaches _

theorem apbpSend_reaches (c : Chan) (i : BitVec 2) (x : Half) : Reaches op s (apbpSend c i x s) :=
  withSlot_reaches i fun k =>
    Reaches.after (.single (Move.apbp c _ (Apbp.fill_dataH _ k x) (Apbp.fill_semH _ k x)))
      (callHandler_reaches _ _ fun _ hv => .inr (.inr (handlerVec_data hv)))

theorem apbpSetSem_reaches (c : Chan) (x : Half) : Reaches op s (apbpSetSem c x s) :=
  Reaches.after (.single (Move.apbp c _ (Apbp.fillSem_dataH _ x) (Apbp.fillSem_semH _ x)))
    (callHandler_reaches _ _ fun _ hv => .inr (.inr (handlerVec_sem hv)))

/-! The units. -/

theorem timerVec_wired (k : UnitId) : timerVec k ∈ wiredVecs := by cases k <;> decide

theorem timerCfg_reaches (ho : Inner op) (k : UnitId) (en : Bool) (p : Word) : Reaches op s (timerCfg k en p s) := by
  unfold timerCfg
  split
  · split
    · exact reaches_raise _
    · rename_i h; exact (Move.timerStart k p ho h).reaches ()
  · split
    · exact (Move.timerStop k ho).reaches ()
    · exact reaches_raise _

/-- A running timer's tick that reaches 0, when its vector is not being triggered (R63). -/
theorem timerTick_expire {k : UnitId} (hr : (s.timer.get k).running = true) (h : (s.timer.get k).counter - 1 = 0)
    (ha : vecGet s.icu.active (timerVec k) = false) :
    timerTick k s = .done () (setCounter k (s.timer.get k).period (s.afterTrigger (timerVec k))) := by
  have hc := trigger_eq (s := setCounter k 0 s) (v := timerVec k) (by simpa [setCounter] using ha)
  simp only [timerTick, hr, if_true, h, callHandler, hc]
  cases k <;> simp [setCounter, State.afterTrigger, State.setTimer, PerUnit.get, PerUnit.set]

/-- A running timer's tick that does not reach 0 (R63). -/
theorem timerTick_count {k : UnitId} (hr : (s.timer.get k).running = true) (h : (s.timer.get k).counter - 1 ≠ 0) :
    timerTick k s = .done () (setCounter k ((s.timer.get k).counter - 1) s) := by
  have h' : ((setCounter k ((s.timer.get k).counter - 1) s).timer.get k).counter ≠ 0 := by
    simpa [setCounter] using h
  simp only [timerTick, hr, if_true]
  rw [if_neg h']

/-- A disabled timer's tick (R64). -/
theorem timerTick_disabled {k : UnitId} (hr : (s.timer.get k).running = false) : timerTick k s = .done () s := by
  simp [timerTick, hr]

/-- A running timer's tick that reaches 0 while its vector is being triggered: no run reaches it (R18). -/
theorem timerTick_caught {k : UnitId} (hr : (s.timer.get k).running = true) (h : (s.timer.get k).counter - 1 = 0)
    (ha : vecGet s.icu.active (timerVec k) = true) :
    timerTick k s = .raised ((setCounter k 0 s).raise .reentrantTrigger) := by
  have hc := trigger_reentrant (s := setCounter k 0 s) (v := timerVec k) (by simpa [setCounter] using ha)
  simp only [timerTick, hr, if_true, h, callHandler, hc]
  simp [setCounter]

theorem timerTick_reaches (ho : Inner op) (k : UnitId) : Reaches op s (timerTick k s) := by
  cases hr : (s.timer.get k).running with
  | false => rw [timerTick_disabled hr]; exact reaches_done _
  | true =>
    by_cases h : (s.timer.get k).counter - 1 = 0
    · cases ha : vecGet s.icu.active (timerVec k) with
      | false => rw [timerTick_expire hr h ha]; exact (Move.timerExpire k ho hr h ha).reaches ()
      | true =>
        rw [timerTick_caught hr h ha]
        exact Reaches.after (.single (Move.timerCaught k ho hr h ha)) (reaches_raise _)
    · rw [timerTick_count hr h]; exact (Move.timerCount k ho hr h).reaches ()

theorem btdmpCfg_reaches (ho : Inner op) (k : UnitId) (en : Bool) (q : Word) : Reaches op s (btdmpCfg k en q s) := by
  unfold btdmpCfg
  split
  · split
    · exact reaches_raise _
    · exact (Move.btdmpStart k q ho).reaches ()
  · split
    · exact (Move.btdmpStop k ho).reaches ()
    · exact reaches_raise _

theorem btdmpTick_reaches (ho : Inner op) (k : UnitId) : Reaches op s (btdmpTick k s) := by
  refine Reaches.after (.single (Move.btdmpFire k ho)) ?_
  unfold btdmpTick
  dsimp only
  split
  · exact callHandler_reaches _ _ fun v hv => .inr (.inl (by cases hv; decide))
  · exact reaches_done _

/-! The transfers. -/

theorem extRead8_reaches (a : Word) : Reaches op s (extRead8 a s) := by
  unfold extRead8
  split
  · exact reaches_done _
  · obtain ⟨p, hp, hc, hs⟩ := drawByte_ports s
    refine Reaches.after (t := (drawByte s).2) ?_ ((Move.extRd a _).reaches _)
    rw [hp]; exact .single (Move.ports p hc (.inl hs))

theorem extWrite8_reaches (a : Word) (b : Byte) : Reaches op s (extWrite8 a b s) := by
  unfold extWrite8
  split
  · exact reaches_done _
  · exact (Move.extWr a b).reaches ()

theorem dmaByte_reaches (dir : Dir) (a e : Word) (i : Nat) : Reaches op s (dmaByte dir a e i s) := by
  cases dir with
  | toExt => exact (memRead_reaches _).bind fun _ _ => extWrite8_reaches _ _
  | fromExt => exact (extRead8_reaches _).bind fun _ _ => memWrite_reaches _ _

theorem dmaBytes_reaches (dir : Dir) (a e : Word) (n : Nat) :
    ∀ (i : Nat) (s : State), Reaches op s (dmaBytes dir a e n i s) := by
  induction n with
  | zero => exact fun _ _ => reaches_done _
  | succ n ih => exact fun i s => (dmaByte_reaches dir a e i).bind fun _ t => ih (i + 1) t

theorem dmaStart_reaches (ho : Inner op) (dir : Dir) (a e len : Word) : Reaches op s (dmaStart dir a e len s) := by
  unfold dmaStart
  split
  · exact reaches_raise _
  · split
    · exact reaches_raise _
    · exact (Reaches.after (.single (Move.dma _ ho)) (dmaBytes_reaches dir a e _ 0 _)).bind
        fun _ _ => callHandler_reaches _ _ fun v hv => .inr (.inl (by cases hv; decide))

/-! The ports, the Processor step and the run. -/

theorem icuSetRoute_reaches (ho : (∃ v r, op = .icuSetRoute v r) ∨ RunsProc op) (v : Vec) (r : BitVec 2) : Reaches op s (icuSetRoute v r s) := by
  unfold icuSetRoute
  split
  · exact (Move.route v _ ho).reaches ()
  · exact reaches_raise _

theorem portRead_reaches (who : Agent) (a : Word) : Reaches op s (portRead who a s) :=
  (memRead_reaches _).bind fun _ _ => giveResult_reaches _ _

theorem action_reaches {i : Instr} (ho : RunsProc op ∨ op = i) (s : State) : Reaches op s (action i s) := by
  have inner (h : i.agent ≠ .host) : Inner op := by
    obtain ho | rfl := ho
    · exact ho.inner
    · exact .inl h
  cases i <;> try exact reaches_raise _
  · exact apbpSend_reaches _ _ _
  · exact (apbpRecv_reaches _ _).bind fun _ _ => giveResult_reaches _ _
  · exact (apbpIsReady_reaches _ _).bind fun _ _ => giveResult_reaches _ _
  · exact (apbpIsReady_reaches _ _).bind fun _ _ => giveResult_reaches _ _
  · exact apbpSetSem_reaches _ _
  · exact (apbpGetSem_reaches _).bind fun _ _ => giveResult_reaches _ _
  · exact dmaStart_reaches (inner (by simp [Instr.agent])) _ _ _ _
  · exact timerCfg_reaches (inner (by simp [Instr.agent])) _ _ _
  · exact btdmpCfg_reaches (inner (by simp [Instr.agent])) _ _ _
  · exact icuSetRoute_reaches (ho.symm.imp (fun h => ⟨_, _, h⟩) id) _ _
  · exact portRead_reaches _ _
  · exact memWrite_reaches _ _

theorem actionWords_reaches (ho : RunsProc op) (a : Words) : Reaches op s (actionWords a s) := by
  unfold actionWords
  split
  · exact reaches_raise _
  · exact action_reaches (.inl ho) s

theorem procMoves_reaches (ho : RunsProc op) (n : Nat) : ∀ s : State, Reaches op s (procMoves n s) := by
  induction n with
  | zero => exact fun _ => trivial
  | succ n ih =>
    intro s
    obtain ⟨p, hp, hc⟩ := drawMove_calls s
    refine Reaches.after (t := (drawMove s).2) (by rw [hp]; exact .single (Move.ports p hc (.inr ho))) ?_
    unfold procMoves
    dsimp only
    split
    · trivial
    · exact (Move.proc _ ho).reaches ()
    · exact (Reaches.after (.single (Move.proc _ ho)) (actionWords_reaches ho _)).bind fun _ t => ih t

theorem procStep_reaches (ho : RunsProc op) : Reaches op s (procStep s) :=
  Reaches.after (.single (Move.stepBegin ho)) (procMoves_reaches ho _ _)

theorem runStep_reaches (ho : RunsProc op) : Reaches op s (runStep s) :=
  (procStep_reaches ho).bind fun _ _ => (timerTick_reaches ho.inner _).bind fun _ _ =>
    (timerTick_reaches ho.inner _).bind fun _ _ => (btdmpTick_reaches ho.inner _).bind fun _ _ =>
      btdmpTick_reaches ho.inner _

theorem runSteps_reaches (ho : RunsProc op) (n : Nat) : ∀ s : State, Reaches op s (runSteps n s) := by
  induction n with
  | zero => exact fun _ => reaches_done _
  | succ n ih => exact fun s => (runStep_reaches ho).bind fun _ t => ih t

theorem endRun_reaches (ho : ∃ n, op = .run n) {e : Eff Unit} (h : Reaches op s e) : Reaches op s (endRun e) := by
  cases e with
  | done a t => exact Relation.ReflTransGen.tail h (Move.inRun false ho)
  | raised t =>
    obtain ⟨u, c, hu, rfl⟩ := h
    exact ⟨u.setInRun false, c, hu.tail (Move.inRun false ho), rfl⟩
  | stopped f => trivial

/-! The whole transaction. -/

/-- A transaction's outcome: on a faulted block nothing, otherwise a path, and perhaps a raised fault at its end. -/
def Lands (op : Instr) (s t : State) : Prop :=
  (s.fault ≠ none ∧ t = s) ∨ (s.fault = none ∧ (Path op s t ∨ ∃ u c, Path op s u ∧ t = u.raise c))

theorem transact_lands {body : State → Eff Unit} (hb : Reaches op s (body s)) (h : transact body s = .next t) :
    Lands op s t := by
  unfold transact at h
  split at h
  · rename_i c hc
    cases h; exact .inl ⟨by simp [hc], rfl⟩
  · rename_i hn
    refine .inr ⟨hn, ?_⟩
    cases he : body s with
    | done a u => rw [he] at h hb; cases h; exact .inl hb
    | raised u => rw [he] at h hb; cases h; exact .inr hb
    | stopped f => rw [he] at h; cases h

/-- What an operation can do: each move is one its operation can make. -/
theorem exec_reaches {i : Instr} (h : exec i s = .next t) : Lands i s t := by
  cases i <;> simp only [exec, execReset, execRun, execHostMemRead, execHostMemWrite, execSendDataIsEmpty, execSendData,
    execRecvDataIsReady, execRecvData, execSetRecvDataHandler, execSetSemaphore, execGetSemaphore,
    execSetSemaphoreHandler, execSetAhbmCallback, execDspSendData, execDspRecvData, execDspIsDataReady,
    execDspOutIsReady, execDspSetSemaphore, execDspGetSemaphore, execDmaStart, execTimerCfg, execBtdmpCfg,
    execIcuSetRoute, execDspMemRead, execDspMemWrite, execTriggerSingle, execProcStep, execTimerTick,
    execBtdmpTick, execExtRead8, execExtWrite8] at h <;>
    refine transact_lands ?_ h
  · exact (Move.reset rfl).reaches ()
  · split
    · exact reaches_raise _
    · exact endRun_reaches ⟨_, rfl⟩
        (Reaches.after (.single (Move.inRun true ⟨_, rfl⟩)) (runSteps_reaches (.inr ⟨_, rfl⟩) _ _))
  · exact portRead_reaches _ _
  · exact memWrite_reaches _ _
  · exact (apbpIsReady_reaches _ _).bind fun _ _ => giveResult_reaches _ _
  · exact apbpSend_reaches _ _ _
  · exact (apbpIsReady_reaches _ _).bind fun _ _ => giveResult_reaches _ _
  · exact (apbpRecv_reaches _ _).bind fun _ _ => giveResult_reaches _ _
  · exact withSlot_reaches _ fun k => (Move.dataHandler k _ ⟨_, rfl⟩).reaches ()
  · exact apbpSetSem_reaches _ _
  · exact (apbpGetSem_reaches _).bind fun _ _ => giveResult_reaches _ _
  · exact (Move.semHandler _ rfl).reaches ()
  · exact (Move.ahbm _ rfl).reaches ()
  · exact apbpSend_reaches _ _ _
  · exact (apbpRecv_reaches _ _).bind fun _ _ => giveResult_reaches _ _
  · exact (apbpIsReady_reaches _ _).bind fun _ _ => giveResult_reaches _ _
  · exact (apbpIsReady_reaches _ _).bind fun _ _ => giveResult_reaches _ _
  · exact apbpSetSem_reaches _ _
  · exact (apbpGetSem_reaches _).bind fun _ _ => giveResult_reaches _ _
  · exact dmaStart_reaches (.inl (by simp [Instr.agent])) _ _ _ _
  · exact timerCfg_reaches (.inl (by simp [Instr.agent])) _ _ _
  · exact btdmpCfg_reaches (.inl (by simp [Instr.agent])) _ _ _
  · exact icuSetRoute_reaches (.inl ⟨_, _, rfl⟩) _ _
  · exact portRead_reaches _ _
  · exact memWrite_reaches _ _
  · exact trigger_reaches _ (.inl rfl)
  · exact procStep_reaches (.inl rfl)
  · exact timerTick_reaches (.inl (by simp [Instr.agent])) _
  · exact btdmpTick_reaches (.inl (by simp [Instr.agent])) _
  · exact (extRead8_reaches _).bind fun b t => (Move.ports { t.io with extReply := some b } rfl (.inl rfl)).reaches ()
  · exact extWrite8_reaches _ _

/-- What a step can do: no call, a call that is not executed, or a host operation executed. -/
theorem step_cases (h : step s = .next t) :
    (s.io.calls = [] ∧ t = s) ∨
    ∃ w rest, s.io.calls = w :: rest ∧
      ((s.fault ≠ none ∧ t = s.setIo { s.io with calls := rest }) ∨
       (s.fault = none ∧ ((∃ code, t = (s.setIo { s.io with calls := rest }).raise code) ∨
         ∃ i, decode w = .ok i ∧ i.agent = .host ∧ exec i (s.setIo { s.io with calls := rest }) = .next t))) := by
  unfold step nextCall at h
  cases hc : s.io.calls with
  | nil => rw [hc] at h; cases h; exact .inl ⟨rfl, rfl⟩
  | cons w rest =>
    rw [hc] at h
    refine .inr ⟨w, rest, rfl, ?_⟩
    unfold admitCall at h
    cases hf : s.fault with
    | some d =>
      simp only [setIo_fault, hf] at h
      cases h; exact .inl ⟨by simp, rfl⟩
    | none =>
      simp only [setIo_fault, hf] at h
      refine .inr ⟨rfl, ?_⟩
      cases hd : decode w with
      | error e => rw [hd] at h; cases h; exact .inl ⟨_, rfl⟩
      | ok i =>
        rw [hd] at h
        dsimp only at h
        by_cases ha : i.agent = .host
        · rw [if_pos ha] at h; exact .inr ⟨i, rfl, ha, h⟩
        · rw [if_neg ha] at h; cases h; exact .inl ⟨_, rfl⟩

/-- A host operation placed in front of the calls is executed by the next step, on the state it was placed in. -/
theorem step_placeCall {w : Words} {i : Instr} (hf : s.fault = none) (hd : decode w = .ok i) (ha : i.agent = .host) :
    step (placeCall w s) = exec i s := by
  simp only [step, nextCall, placeCall, admitCall, setIo_io, setIo_fault, hf, hd, ha, if_true]
  rfl

/-- A Processor step placed as the next is `RUN 1` over its moves. -/
theorem step_placeStep (as : List Words) (hf : s.fault = none) :
    step (placeStep as s) = exec (.run 1) (s.setIo { s.io with
      script := as.map (fun a => some (.act s.proc a)) ++ some (.done s.proc) :: s.io.script }) :=
  step_placeCall (by simpa using hf) (by decide) rfl

/-- No move touches the fault (R28): only a raise does. -/
theorem Path.fault (h : Path op s t) : t.fault = s.fault := by
  induction h with
  | refl => rfl
  | tail _ h ih =>
    rw [← ih]
    cases h <;> first | rfl | (rename_i c _ _ _; cases c <;> rfl)

/-- A property that every move keeps holds along a path. -/
theorem Path.keeps {I : State → Prop} (hm : ∀ u w, Move op u w → I u → I w) (h : Path op s t) (hi : I s) : I t := by
  induction h with
  | refl => exact hi
  | tail _ h ih => exact hm _ _ h ih

/-- The induction over what an operation does, packaged once: a property that every move and the raise of a first fault
keep. -/
theorem exec_keeps {I : State → Prop} (hm : ∀ op u w, Move op u w → I u → I w)
    (hr : ∀ u c, u.fault = none → I u → I (u.raise c)) {i : Instr} (h : exec i s = .next t) (hi : I s) : I t := by
  obtain ⟨_, rfl⟩ | ⟨hf, hp | ⟨u, c, hp, rfl⟩⟩ := exec_reaches h
  · exact hi
  · exact hp.keeps (hm _) hi
  · exact hr _ _ (hp.fault.trans hf) (hp.keeps (hm _) hi)

/-- The induction over what a step does, packaged once. -/
theorem step_keeps {I : State → Prop} (hm : ∀ op u w, Move op u w → I u → I w)
    (hr : ∀ u c, u.fault = none → I u → I (u.raise c)) (hio : ∀ u p, I u → I (u.setIo p))
    (h : step s = .next t) (hi : I s) : I t := by
  obtain ⟨_, rfl⟩ | ⟨c, rest, _, ⟨_, rfl⟩ | ⟨hf, ⟨code, rfl⟩ | ⟨i, _, _, he⟩⟩⟩ := step_cases h
  · exact hi
  · exact hio _ _ hi
  · exact hr _ _ hf (hio _ _ hi)
  · exact exec_keeps hm hr he (hio _ _ hi)

end Sys2Proof.Machine
end

