-- ==== Sys2Proof/Laws/PerInstr.lean ====
section
/-! SUPPORT. Facts about the operations as syntax, one lemma a constructor (LAWS.json). -/

namespace Sys2Proof.Laws.ExtLength

/-- The length that R46 finds from the header's `OP` alone is the number of the operation's extension words. -/
def Statement (i : Instr) : Prop := extCount i.header.toWord = i.ext.length

theorem reset : Statement .reset := by
  simp [Statement, extCount, Header.ofWord_toWord, Instr.header, Instr.ext]

theorem run (n : Word) : Statement (.run n) := by
  simp [Statement, extCount, Header.ofWord_toWord, Instr.header, Instr.ext]

theorem hostMemRead (a : Word) : Statement (.hostMemRead a) := by
  simp [Statement, extCount, Header.ofWord_toWord, Instr.header, Instr.ext]

theorem hostMemWrite (b : Byte) (a : Word) : Statement (.hostMemWrite b a) := by
  simp [Statement, extCount, Header.ofWord_toWord, Instr.header, Instr.ext]

theorem sendDataIsEmpty (i : BitVec 2) : Statement (.sendDataIsEmpty i) := by
  simp [Statement, extCount, Header.ofWord_toWord, Instr.header, Instr.ext]

theorem sendData (i : BitVec 2) (x : Half) : Statement (.sendData i x) := by
  simp [Statement, extCount, Header.ofWord_toWord, Instr.header, Instr.ext]

theorem recvDataIsReady (i : BitVec 2) : Statement (.recvDataIsReady i) := by
  simp [Statement, extCount, Header.ofWord_toWord, Instr.header, Instr.ext]

theorem recvData (i : BitVec 2) : Statement (.recvData i) := by
  simp [Statement, extCount, Header.ofWord_toWord, Instr.header, Instr.ext]

theorem setRecvDataHandler (i : BitVec 2) (t : Half) : Statement (.setRecvDataHandler i t) := by
  simp [Statement, extCount, Header.ofWord_toWord, Instr.header, Instr.ext]

theorem setSemaphore (x : Half) : Statement (.setSemaphore x) := by
  simp [Statement, extCount, Header.ofWord_toWord, Instr.header, Instr.ext]

theorem getSemaphore : Statement .getSemaphore := by
  simp [Statement, extCount, Header.ofWord_toWord, Instr.header, Instr.ext]

theorem setSemaphoreHandler (t : Half) : Statement (.setSemaphoreHandler t) := by
  simp [Statement, extCount, Header.ofWord_toWord, Instr.header, Instr.ext]

theorem setAhbmCallback (t : Half) : Statement (.setAhbmCallback t) := by
  simp [Statement, extCount, Header.ofWord_toWord, Instr.header, Instr.ext]

theorem dspSendData (i : BitVec 2) (x : Half) : Statement (.dspSendData i x) := by
  simp [Statement, extCount, Header.ofWord_toWord, Instr.header, Instr.ext]

theorem dspRecvData (i : BitVec 2) : Statement (.dspRecvData i) := by
  simp [Statement, extCount, Header.ofWord_toWord, Instr.header, Instr.ext]

theorem dspIsDataReady (i : BitVec 2) : Statement (.dspIsDataReady i) := by
  simp [Statement, extCount, Header.ofWord_toWord, Instr.header, Instr.ext]

theorem dspOutIsReady (i : BitVec 2) : Statement (.dspOutIsReady i) := by
  simp [Statement, extCount, Header.ofWord_toWord, Instr.header, Instr.ext]

theorem dspSetSemaphore (x : Half) : Statement (.dspSetSemaphore x) := by
  simp [Statement, extCount, Header.ofWord_toWord, Instr.header, Instr.ext]

theorem dspGetSemaphore : Statement .dspGetSemaphore := by
  simp [Statement, extCount, Header.ofWord_toWord, Instr.header, Instr.ext]

theorem dmaStart (dir : Dir) (a e len : Word) : Statement (.dmaStart dir a e len) := by
  simp [Statement, extCount, Header.ofWord_toWord, Instr.header, Instr.ext]

theorem timerCfg (k : UnitId) (en : Bool) (p : Word) : Statement (.timerCfg k en p) := by
  simp [Statement, extCount, Header.ofWord_toWord, Instr.header, Instr.ext]

theorem btdmpCfg (k : UnitId) (en : Bool) (q : Word) : Statement (.btdmpCfg k en q) := by
  simp [Statement, extCount, Header.ofWord_toWord, Instr.header, Instr.ext]

theorem icuSetRoute (v : Vec) (r : BitVec 2) : Statement (.icuSetRoute v r) := by
  simp [Statement, extCount, Header.ofWord_toWord, Instr.header, Instr.ext]

theorem dspMemRead (a : Word) : Statement (.dspMemRead a) := by
  simp [Statement, extCount, Header.ofWord_toWord, Instr.header, Instr.ext]

theorem dspMemWrite (b : Byte) (a : Word) : Statement (.dspMemWrite b a) := by
  simp [Statement, extCount, Header.ofWord_toWord, Instr.header, Instr.ext]

theorem triggerSingle (v : Vec) : Statement (.triggerSingle v) := by
  simp [Statement, extCount, Header.ofWord_toWord, Instr.header, Instr.ext]

theorem procStep : Statement .procStep := by
  simp [Statement, extCount, Header.ofWord_toWord, Instr.header, Instr.ext]

theorem timerTick (k : UnitId) : Statement (.timerTick k) := by
  simp [Statement, extCount, Header.ofWord_toWord, Instr.header, Instr.ext]

theorem btdmpTick (k : UnitId) : Statement (.btdmpTick k) := by
  simp [Statement, extCount, Header.ofWord_toWord, Instr.header, Instr.ext]

theorem extRead8 (a : Word) : Statement (.extRead8 a) := by
  simp [Statement, extCount, Header.ofWord_toWord, Instr.header, Instr.ext]

theorem extWrite8 (b : Byte) (a : Word) : Statement (.extWrite8 b a) := by
  simp [Statement, extCount, Header.ofWord_toWord, Instr.header, Instr.ext]

end Sys2Proof.Laws.ExtLength
end

