-- ==== Sys2Proof/Laws/Transfers.lean ====
section
/-! SUPPORT. What the byte loop of a DMA transfer does (R67), by direction and by whether a callback is installed. -/

namespace Sys2Proof.Machine

variable {a e : Word} {tok : Half}

/-- A transfer in range is its configuration, its bytes and its completion (R67). -/
theorem dmaStart_inRange {dir : Dir} {len : Word} {s : State} (hs : a.toNat + len.toNat ≤ s.cfg.shmemSize)
    (he : e.toNat + len.toNat ≤ 2 ^ 32) :
    dmaStart dir a e len s =
      (dmaBytes dir a e len.toNat 0 (s.setDma ⟨dir, a, e, len⟩)).bind fun _ s => callHandler (.icu Config.vecDma) .dma s := by
  have h1 : shmRunFits a len s = true := decide_eq_true hs
  have h2 : extRunFits e len = true := decide_eq_true he
  simp [dmaStart, h1, h2]

/-- Bytes to an installed callback: one recorded write each, in ascending order (R69, R71). -/
theorem dmaBytes_out (n : Nat) : ∀ (i : Nat) (s : State), s.ahbm.cb = some tok → a.toNat + i + n ≤ s.cfg.shmemSize →
    dmaBytes .toExt a e n i s = .done () { s with
      hist := s.hist ++ (List.range n).map fun j =>
        .extWr (BitVec.ofNat 32 (e.toNat + (i + j))) (s.mem.get (a.toNat + (i + j))) } := by
  induction n with
  | zero => intro i s _ _; simp [dmaBytes]
  | succ n ih =>
    intro i s hc hb
    simp only [dmaBytes, dmaByte, memRead_eq (s := s) (a := a.toNat + i) (by omega), Eff.bind_done, extWrite8, hc]
    rw [ih (i + 1) (s.emit _) hc (by show _ ≤ s.cfg.shmemSize; omega)]
    simp [List.range_succ_eq_map, extAddr, State.emit, Function.comp_def, Nat.add_assoc, Nat.add_comm 1]

/-- Bytes to no callback: dropped (R69). -/
theorem dmaBytes_out_dropped (n : Nat) :
    ∀ (i : Nat) (s : State), s.ahbm.cb = none → a.toNat + i + n ≤ s.cfg.shmemSize →
      dmaBytes .toExt a e n i s = .done () s := by
  induction n with
  | zero => intro i s _ _; simp [dmaBytes]
  | succ n ih =>
    intro i s hc hb
    simp only [dmaBytes, dmaByte, memRead_eq (s := s) (a := a.toNat + i) (by omega), Eff.bind_done, extWrite8, hc]
    rw [ih (i + 1) _ hc (by omega)]

/-- Bytes from no callback: the run reads as the default, all else as before (R68). -/
theorem dmaBytes_in_default (n : Nat) :
    ∀ (i : Nat) (s : State), s.mem.wf = true → s.ahbm.cb = none → a.toNat + i + n ≤ s.cfg.shmemSize →
      ∃ m : Memory, dmaBytes .fromExt a e n i s = .done () { s with mem := m } ∧
        (∀ x, a.toNat + i ≤ x → x < a.toNat + i + n → m.get x = Config.ahbmDefault) ∧
        ∀ x, x < a.toNat + i ∨ a.toNat + i + n ≤ x → m.get x = s.mem.get x := by
  induction n with
  | zero => intro i s _ _ _; exact ⟨s.mem, rfl, fun x h h' => absurd h' (by omega), fun _ _ => rfl⟩
  | succ n ih =>
    intro i s hw hc hb
    simp only [dmaBytes, dmaByte, extRead8, hc, Eff.bind_done, memWrite_eq (s := s) (a := a.toNat + i) (by omega)]
    obtain ⟨m, h1, h2, h3⟩ := ih (i + 1) (s.setMem (s.mem.put (a.toNat + i) Config.ahbmDefault))
      (Memory.put_wf hw _ _) hc (by simp; omega)
    refine ⟨m, h1, fun x hx hx' => ?_, fun x hx => ?_⟩
    · by_cases hxi : x = a.toNat + i
      · subst hxi; rw [h3 _ (.inl (by omega))]; exact Memory.get_put_self hw _ _
      · exact h2 x (by omega) (by omega)
    · rw [h3 x (by omega)]; exact Memory.get_put_ne _ _ (by omega)

/-- A draw of a host answer: the first that waits, or a free byte; the draw changes `answers` and `draws` alone. -/
theorem drawByte_cases (s : State) :
    ∃ b p, drawByte s = (b, s.setIo p) ∧ (∀ n, s.io.answers.take (n + 1) <+: b :: p.answers.take n) ∧
      (∀ n, p.answers.drop n = s.io.answers.drop (n + 1)) ∧
      p = { s.io with answers := p.answers, draws := p.draws } := by
  unfold drawByte
  split
  · rename_i b r h; exact ⟨b, _, rfl, by simp [h], by simp [h], rfl⟩
  · rename_i h; exact ⟨_, _, rfl, by simp [h], by simp [h], rfl⟩

/-- Bytes from an installed callback: one recorded answer each, in ascending order, stored one after another (R68, R71). -/
theorem dmaBytes_in (n : Nat) : ∀ (i : Nat) (s : State), s.mem.wf = true → s.ahbm.cb = some tok →
    a.toNat + i + n ≤ s.cfg.shmemSize → ∃ (bs : List Byte) (m : Memory) (draws : Nat),
      bs.length = n ∧ s.io.answers.take n <+: bs ∧
      dmaBytes .fromExt a e n i s = .done () { s with
        mem := m
        hist := s.hist ++ bs.mapIdx fun j b => .extRd (BitVec.ofNat 32 (e.toNat + (i + j))) b
        io := { s.io with answers := s.io.answers.drop n, draws := draws } } ∧
      (∀ j : Nat, j < n → bs[j]? = some (m.get (a.toNat + (i + j)))) ∧
      ∀ x, x < a.toNat + i ∨ a.toNat + i + n ≤ x → m.get x = s.mem.get x := by
  induction n with
  | zero =>
    intro i s _ _ _
    exact ⟨[], s.mem, s.io.draws, rfl, by simp, by simp [dmaBytes], by simp, fun _ _ => rfl⟩
  | succ n ih =>
    intro i s hw hc hb
    obtain ⟨b, p, hd, hp1, hp2, hp3⟩ := drawByte_cases s
    simp only [dmaBytes, dmaByte, extRead8, hc, hd, Eff.bind_done]
    rw [memWrite_eq (by simp; omega)]
    simp only [Eff.bind_done]
    obtain ⟨bs, m, d, h0, h1, h2, h3, h4⟩ := ih (i + 1)
      (((s.setIo p).emit (.extRd (extAddr e i) b)).setMem (s.mem.put (a.toNat + i) b)) (Memory.put_wf hw _ _) hc
      (by simp; omega)
    refine ⟨b :: bs, m, d, by simp [h0], ?_, ?_, fun j hj => ?_, fun x hx => ?_⟩
    · exact (hp1 n).trans (List.cons_prefix_cons.2 ⟨rfl, h1⟩)
    · simp only [emit_mem, setIo_mem]
      rw [h2]
      simp only [setMem_io, emit_io, setIo_io, hp2]
      rw [hp3]
      simp [State.setMem, State.emit, State.setIo, extAddr, List.mapIdx_cons, Nat.add_assoc, Nat.add_comm 1]
    · cases j with
      | zero => simp; rw [h4 _ (.inl (by omega))]; exact (Memory.get_put_self hw _ _).symm
      | succ j => simp; rw [h3 j (by omega)]; congr 2; omega
    · rw [h4 x (by omega)]; exact Memory.get_put_ne _ _ (by omega)

end Sys2Proof.Machine
end

