-- ==== Sys2Proof/Text.lean ====
section
/-! DEFINITION. The numbers of the fault codes (60_exceptions R110), and the textual syntax of 30_encoding R51: a mnemonic
and its operands in the order R51 gives, numbers in decimal. No rule of the block depends on either. -/

namespace Sys2Proof

/-- The number of a fault code (R110), the `code` of `FaultEv(code)`. -/
def FaultCode.number : FaultCode → Nat
  | .encoding => 1
  | .agent => 2
  | .index => 3
  | .reentrantTrigger => 4
  | .reentrantRun => 5
  | .timerPeriodZero => 6
  | .btdmpPeriodZero => 7
  | .memRange => 8
  | .extRange => 9

/-- The operands of a transaction, one after another. -/
def Text.operands : List String → String
  | [] => ""
  | [x] => x
  | x :: y :: rest => x ++ ", " ++ Text.operands (y :: rest)

/-- A mnemonic with its operands. -/
def Text.line (mnemonic : String) (ops : List String) : String :=
  match ops with
  | [] => mnemonic
  | _ :: _ => mnemonic ++ " " ++ Text.operands ops

/-- A number in decimal. -/
def Text.num {n : Nat} (x : BitVec n) : String := toString x.toNat

/-- A unit's number. -/
def Text.unit : UnitId → String
  | .u0 => "0"
  | .u1 => "1"

/-- An enable. -/
def Text.enable (en : Bool) : String := if en then "on" else "off"

/-- A direction. -/
def Text.dir : Dir → String
  | .toExt => "to_ext"
  | .fromExt => "from_ext"

/-- A route code: the name of its route, or the illegal code's number. -/
def Text.route (r : BitVec 2) : String :=
  match r.toNat with
  | 0 => "Direct"
  | 1 => "Vectored"
  | 2 => "Masked"
  | _ => "3"

/-- A transaction as the spec writes it (R51). -/
def Instr.text : Instr → String
  | .reset => Text.line "RESET" []
  | .run n => Text.line "RUN" [Text.num n]
  | .hostMemRead a => Text.line "HOST_MEM_READ" [Text.num a]
  | .hostMemWrite b a => Text.line "HOST_MEM_WRITE" [Text.num b, Text.num a]
  | .sendDataIsEmpty i => Text.line "SEND_DATA_IS_EMPTY" [Text.num i]
  | .sendData i x => Text.line "SEND_DATA" [Text.num i, Text.num x]
  | .recvDataIsReady i => Text.line "RECV_DATA_IS_READY" [Text.num i]
  | .recvData i => Text.line "RECV_DATA" [Text.num i]
  | .setRecvDataHandler i t => Text.line "SET_RECV_DATA_HANDLER" [Text.num i, Text.num t]
  | .setSemaphore x => Text.line "SET_SEMAPHORE" [Text.num x]
  | .getSemaphore => Text.line "GET_SEMAPHORE" []
  | .setSemaphoreHandler t => Text.line "SET_SEMAPHORE_HANDLER" [Text.num t]
  | .setAhbmCallback t => Text.line "SET_AHBM_CALLBACK" [Text.num t]
  | .dspSendData i x => Text.line "DSP_SEND_DATA" [Text.num i, Text.num x]
  | .dspRecvData i => Text.line "DSP_RECV_DATA" [Text.num i]
  | .dspIsDataReady i => Text.line "DSP_IS_DATA_READY" [Text.num i]
  | .dspOutIsReady i => Text.line "DSP_OUT_IS_READY" [Text.num i]
  | .dspSetSemaphore x => Text.line "DSP_SET_SEMAPHORE" [Text.num x]
  | .dspGetSemaphore => Text.line "DSP_GET_SEMAPHORE" []
  | .dmaStart dir a e len => Text.line "DMA_START" [Text.dir dir, Text.num a, Text.num e, Text.num len]
  | .timerCfg k en p => Text.line "TIMER_CFG" [Text.unit k, Text.enable en, Text.num p]
  | .btdmpCfg k en q => Text.line "BTDMP_CFG" [Text.unit k, Text.enable en, Text.num q]
  | .icuSetRoute v r => Text.line "ICU_SET_ROUTE" [Text.num v, Text.route r]
  | .dspMemRead a => Text.line "DSP_MEM_READ" [Text.num a]
  | .dspMemWrite b a => Text.line "DSP_MEM_WRITE" [Text.num b, Text.num a]
  | .triggerSingle v => Text.line "TRIGGER_SINGLE" [Text.num v]
  | .procStep => Text.line "PROC_STEP" []
  | .timerTick k => Text.line "TIMER_TICK" [Text.unit k]
  | .btdmpTick k => Text.line "BTDMP_TICK" [Text.unit k]
  | .extRead8 a => Text.line "EXT_READ8" [Text.num a]
  | .extWrite8 b a => Text.line "EXT_WRITE8" [Text.num b, Text.num a]

end Sys2Proof
end

