-- ==== Sys2Proof/Tests/Slice0.lean ====
section
/-! SUPPORT. The author's own tests. The expected results are the spec's: 95_test_vectors, the examples of the rules, and
words written out from the tables of 30_encoding. -/

namespace Sys2Proof.Tests

open Sys2Proof.Machine

/-! Small states and readers. -/

/-- The start state of the spec's test vectors. -/
def base : State := State.construct Params.reference

/-- A state with one call of the host waiting. -/
def calling (s : State) (t : Words) : State := { s with io := { s.io with calls := [t] } }

/-- A state with Processor moves already drawn. -/
def scripted (s : State) (ms : List (Option ProcMove)) : State := { s with io := { s.io with script := ms } }

/-- A state with host answers waiting. -/
def answering (s : State) (bs : List Byte) : State := { s with io := { s.io with answers := bs } }

/-- The state an outcome goes on in, or the one given. -/
def nextOr (o : Host.Outcome State Fault Refusal) (s : State) : State :=
  match o with
  | .next t => t
  | .fault _ | .refused _ => s

/-- The outcome is a next state. -/
def goesOn (o : Host.Outcome State Fault Refusal) : Bool :=
  match o with
  | .next _ => true
  | .fault _ | .refused _ => false

theorem goesOn_iff {o : Host.Outcome State Fault Refusal} (h : goesOn o = true) : ∃ t, o = .next t := by
  cases o with
  | next t => exact ⟨t, rfl⟩
  | fault f => cases h
  | refused r => cases h

/-- The state after an operation. -/
def after (i : Instr) (s : State) : State := nextOr (exec i s) s

/-- The events after an operation on the start state's history. -/
def eventsOf (i : Instr) (s : State) : List Event := (after i s).hist

/-- The moves of a Processor that issues some actions and ends its step, in state 0 throughout (95, `script`). -/
def stepOf (as : List Words) : List (Option ProcMove) := as.map (fun a => some (.act 0 a)) ++ [some (.done 0)]

/-- A header word alone. -/
def word (w : Word) : Words := ⟨w, 0, 0, 0⟩

/-! Well-formedness: an ill-formed term for each check, which the check refuses and whose word the decoder refuses. -/

theorem test_wellFormed_route : Instr.wellFormed (.icuSetRoute 0xE 3) = false := by decide
theorem test_wellFormed_timer : Instr.wellFormed (.timerCfg .u0 false 3) = false := by decide
theorem test_wellFormed_btdmp : Instr.wellFormed (.btdmpCfg .u1 false 1) = false := by decide
theorem test_refused_route : decode (word 0x290E0003) = .error .routeReserved := by decide
theorem test_refused_timer : decode ⟨0x27000000, 3, 0, 0⟩ = .error .stoppedPeriod := by decide
theorem test_refused_btdmp : decode ⟨0x28200000, 1, 0, 0⟩ = .error .stoppedPeriod := by decide
theorem test_refused_routeHigh : decode (word 0x290E0004) = .error .routeHigh := by decide
theorem test_refused_byteHigh : decode (word 0x0400017F) = .error .byteHigh := by decide
theorem test_refused_byteHigh_dsp : decode (word 0x2B008000) = .error .byteHigh := by decide
theorem test_refused_byteHigh_ext : decode (word 0x45000100) = .error .byteHigh := by decide
theorem test_refused_op0 : decode (word 0x00000000) = .error .undefinedOp := by decide
theorem test_refused_opFF : decode (word 0xFF000000) = .error .undefinedOp := by decide
theorem test_refused_op0E : decode (word 0x0E000000) = .error .undefinedOp := by decide
theorem test_refused_op46 : decode (word 0x46000000) = .error .undefinedOp := by decide
theorem test_refused_unused_v : decode (word 0x01010000) = .error .unusedField := by decide
theorem test_refused_unused_k : decode (word 0x06200005) = .error .unusedField := by decide
theorem test_refused_unused_i : decode (word 0x40400000) = .error .unusedField := by decide
theorem test_refused_unused_e : decode (word 0x42100000) = .error .unusedField := by decide
theorem test_refused_unused_imm : decode (word 0x26000001) = .error .unusedField := by decide

/-! Decoding: a word of each operation, written out from R45, R46 and R48 or taken from 95. -/

theorem test_decode_reset : decode (word 0x01000000) = .ok .reset := by decide
theorem test_decode_run : decode ⟨0x02000000, 0xC, 0, 0⟩ = .ok (.run 12) := by decide
theorem test_decode_hostMemRead : decode ⟨0x03000000, 0x10, 0, 0⟩ = .ok (.hostMemRead 0x10) := by decide
theorem test_decode_hostMemWrite : decode ⟨0x0400007F, 0x10, 0, 0⟩ = .ok (.hostMemWrite 0x7F 0x10) := by decide
theorem test_decode_sendDataIsEmpty : decode (word 0x05800000) = .ok (.sendDataIsEmpty 2) := by decide
theorem test_decode_sendData : decode (word 0x06001234) = .ok (.sendData 0 0x1234) := by decide
theorem test_decode_sendData_three : decode (word 0x06C00001) = .ok (.sendData 3 1) := by decide
theorem test_decode_recvDataIsReady : decode (word 0x07400000) = .ok (.recvDataIsReady 1) := by decide
theorem test_decode_recvData : decode (word 0x08400000) = .ok (.recvData 1) := by decide
theorem test_decode_setRecvDataHandler : decode (word 0x09400003) = .ok (.setRecvDataHandler 1 3) := by decide
theorem test_decode_setSemaphore : decode (word 0x0A000001) = .ok (.setSemaphore 1) := by decide
theorem test_decode_getSemaphore : decode (word 0x0B000000) = .ok .getSemaphore := by decide
theorem test_decode_setSemaphoreHandler : decode (word 0x0C000004) = .ok (.setSemaphoreHandler 4) := by decide
theorem test_decode_setAhbmCallback : decode (word 0x0D000007) = .ok (.setAhbmCallback 7) := by decide
theorem test_decode_dspSendData : decode (word 0x20400077) = .ok (.dspSendData 1 0x77) := by decide
theorem test_decode_dspRecvData : decode (word 0x21000000) = .ok (.dspRecvData 0) := by decide
theorem test_decode_dspIsDataReady : decode (word 0x22400000) = .ok (.dspIsDataReady 1) := by decide
theorem test_decode_dspOutIsReady : decode (word 0x23800000) = .ok (.dspOutIsReady 2) := by decide
theorem test_decode_dspSetSemaphore : decode (word 0x24008000) = .ok (.dspSetSemaphore 0x8000) := by decide
theorem test_decode_dspGetSemaphore : decode (word 0x25000000) = .ok .dspGetSemaphore := by decide
theorem test_decode_dmaStart_out : decode ⟨0x26000000, 0, 0x10, 2⟩ = .ok (.dmaStart .toExt 0 0x10 2) := by decide
theorem test_decode_dmaStart_in : decode ⟨0x26100000, 8, 0x20, 2⟩ = .ok (.dmaStart .fromExt 8 0x20 2) := by decide
theorem test_decode_timerCfg : decode ⟨0x27300000, 2, 0, 0⟩ = .ok (.timerCfg .u1 true 2) := by decide
theorem test_decode_timerCfg_off : decode (word 0x27000000) = .ok (Pseudo.timerStop .u0) := by decide
theorem test_decode_btdmpCfg : decode ⟨0x28300000, 4, 0, 0⟩ = .ok (.btdmpCfg .u1 true 4) := by decide
theorem test_decode_btdmpCfg_off : decode (word 0x28200000) = .ok (Pseudo.btdmpStop .u1) := by decide
theorem test_decode_icuSetRoute : decode (word 0x290E0001) = .ok (Pseudo.icuVectored 0xE) := by decide
theorem test_decode_icuSetRoute_masked : decode (word 0x290F0002) = .ok (Pseudo.icuMask 0xF) := by decide
theorem test_decode_dspMemRead : decode ⟨0x2A000000, 0x40, 0, 0⟩ = .ok (.dspMemRead 0x40) := by decide
theorem test_decode_dspMemWrite : decode ⟨0x2B000001, 0x20, 0, 0⟩ = .ok (.dspMemWrite 1 0x20) := by decide
theorem test_decode_triggerSingle : decode (word 0x400A0000) = .ok (.triggerSingle 0xA) := by decide
theorem test_decode_procStep : decode (word 0x41000000) = .ok .procStep := by decide
theorem test_decode_timerTick : decode (word 0x42200000) = .ok (.timerTick .u1) := by decide
theorem test_decode_btdmpTick : decode (word 0x43200000) = .ok (.btdmpTick .u1) := by decide
theorem test_decode_extRead8 : decode ⟨0x44000000, 0x2000, 0, 0⟩ = .ok (.extRead8 0x2000) := by decide
theorem test_decode_extWrite8 : decode ⟨0x4500005A, 0x2000, 0, 0⟩ = .ok (.extWrite8 0x5A 0x2000) := by decide

/-- A flat stream: `DMA_START` takes three words with it, an undefined `OP` none (R46). -/
theorem test_cut_dma : cut [0x26100000, 8, 0x20, 2, 0xFF000000, 7] = some (⟨0x26100000, 8, 0x20, 2⟩, [0xFF000000, 7]) := by
  decide
theorem test_cut_undefined : cut [0xFF000000, 7] = some (word 0xFF000000, [7]) := by decide
theorem test_cut_short : cut [0x26100000, 8, 0x20] = none := by decide

/-- The table's numbering: X1 is bits 63 to 32. -/
theorem test_tableWord : decodeTableWord 64 0x000000100400007F = some (.hostMemWrite 0x7F 0x10) := by decide
theorem test_tableWord_short : decodeTableWord 32 0x02000000 = some (.run 0) := by decide

/-- The line of R51: the byte before the address. -/
theorem test_text : Instr.text (.hostMemWrite 0x7F 0x10) = "HOST_MEM_WRITE 127, 16" := by decide
theorem test_text_route : Instr.text (.icuSetRoute 0xA 0) = "ICU_SET_ROUTE 10, Direct" := by decide

/-- The first and the last number of R110. -/
theorem test_faultNumbers : FaultCode.encoding.number = 1 ∧ FaultCode.extRange.number = 9 := by decide

/-! One step each, from 95_test_vectors; the name ends in the vector's. -/

/-- The route of one vector changed. -/
def routing (s : State) (v : Vec) (r : Route) : State := s.setRoute v r

/-- A step of the block whose Processor issues some words, inside `RUN 1`. -/
def run1 (s : State) (as : List Words) : State := after (.run 1) (scripted s (stepOf as))

theorem test_W1 : eventsOf (.sendData 0 0x1234) base = [.raise 0xE, .deliver .direct 0xE] := by decide
theorem test_W1_empty : eventsOf (.sendDataIsEmpty 0) (after (.sendData 0 0x1234) base)
    = [.raise 0xE, .deliver .direct 0xE, .result .host 0] := by decide
theorem test_W7 : (after .reset { base with timer := ⟨⟨true, 3, 2⟩, Timer.zero⟩, mem := [(5, 9)] }).timer.u0 = ⟨false, 0, 0⟩ := by
  decide
theorem test_ICU_2 : eventsOf (.triggerSingle 0xA) (routing base 0xA .vectored) = [.raise 0xA, .deliver .vectored 0xA] := by
  decide
theorem test_ICU_3 : eventsOf (.sendData 1 5) (routing base 0xE .masked) = [.raise 0xE, .suppressed 0xE] := by decide
theorem test_ICU_5 : vecGet (run1 base [word 0x290E0001]).icu.route 0xE = .vectored := by decide
theorem test_ICU_6 : (run1 base [word 0x290E0003]).fault = some .encoding := by decide
theorem test_ICU_7 : (nextOr (step (calling base (word 0x290A0001))) base).hist = [.faultEv .agent] := by decide
theorem test_ICU_8 : (nextOr (step (calling base (word 0x400A0000))) base).hist = [.faultEv .agent] := by decide
theorem test_ICU_9 : (run1 { base with
      timer := ⟨⟨true, 1, 1⟩, ⟨true, 1, 1⟩⟩
      btdmp := ⟨⟨true, 1, 1, 0⟩, ⟨true, 1, 1, 0⟩⟩ } []).hist =
    [.stepBegin 1, .raise 0xA, .deliver .direct 0xA, .raise 0x9, .deliver .direct 0x9,
     .raise 0xB, .deliver .direct 0xB, .raise 0xB, .deliver .direct 0xB] := by decide
theorem test_TMR_1 : (run1 base [⟨0x27100000, 0xA, 0, 0⟩]).timer.u0 = ⟨true, 10, 9⟩ := by decide
theorem test_TMR_2 : (after (.timerCfg .u0 true 0) base).fault = some .timerPeriodZero := by decide
theorem test_TMR_4 : (after (.timerCfg .u0 false 0) { base with timer := ⟨⟨true, 5, 3⟩, Timer.zero⟩ }).timer.u0
    = ⟨false, 5, 3⟩ := by decide
theorem test_TMR_6 : (after (.timerTick .u0) { base with timer := ⟨⟨true, 1, 1⟩, Timer.zero⟩ }).timer.u0
    = ⟨true, 1, 1⟩ := by decide
theorem test_TMR_7 : (after (.timerTick .u0) { base with timer := ⟨⟨true, 0xFFFFFFFF, 0xFFFFFFFF⟩, Timer.zero⟩ }).timer.u0.counter
    = 0xFFFFFFFE := by decide
theorem test_DMA_1 : eventsOf (.dmaStart .toExt 0 0 0) base = [.raise 0xF, .deliver .direct 0xF] := by decide
theorem test_DMA_2 : eventsOf (.dmaStart .toExt 0xFFC 0 4) base = [.raise 0xF, .deliver .direct 0xF] := by decide
theorem test_DMA_3 : eventsOf (.dmaStart .toExt 0xFFD 0 4) base = [.faultEv .memRange] := by decide
theorem test_DMA_6 : eventsOf (.dmaStart .fromExt 0x10 0xFFFFFFFF 0x2000) base = [.faultEv .memRange] := by decide
theorem test_DMA_8 : (after (.dmaStart .fromExt 0x20 0x300 1) (answering { base with ahbm := ⟨some 7⟩ } [0x9C])).mem
    = [(0x20, 0x9C)] := by decide
theorem test_W6 : (run1 { base with ahbm := ⟨some 7⟩, mem := [(0, 1), (1, 2), (2, 3)] } [⟨0x26000000, 0, 0x40, 3⟩]).hist =
    [.stepBegin 1, .extWr 0x40 1, .extWr 0x41 2, .extWr 0x42 3, .raise 0xF, .deliver .direct 0xF] := by decide
theorem test_EXT_write : eventsOf (.extWrite8 0x5A 0x2000) { base with ahbm := ⟨some 7⟩ } = [.extWr 0x2000 0x5A] := by decide
theorem test_EXT_read : (after (.extRead8 0x2000) base).io.extReply = some 0x00 := by decide
theorem test_APB_2 : eventsOf (.recvData 1) base = [.result .host 0] := by decide
theorem test_APB_3 : eventsOf (.sendData 3 1) base = [.faultEv .index] := by decide
theorem test_APB_4 : (after (.setSemaphore 1) base).c2d.sem = 1 := by decide
theorem test_APB_5 : (run1 { base with c2d := { base.c2d with sem := 1, semReady := true } } [word 0x25000000]).hist
    = [.stepBegin 1, .result .processor 1] := by decide
theorem test_APB_6 : (run1 (after (.setSemaphoreHandler 4) base) [word 0x24008000]).hist
    = [.stepBegin 1, .hostCb 4 .sem] := by decide
theorem test_APB_6_get : eventsOf .getSemaphore { base with d2c := { base.d2c with sem := 0x8000, semReady := true } }
    = [.result .host 0x8000] := by decide
theorem test_APB_7 : (run1 base [word 0x20000001, word 0x23000000]).hist = [.stepBegin 1, .result .processor 1] := by decide
theorem test_APB_8 : (run1 { base with c2d := { base.c2d with ready := ⟨false, true, false⟩ } }
    [word 0x22400000, word 0x22400000]).hist = [.stepBegin 1, .result .processor 1, .result .processor 1] := by decide
theorem test_APB_9 : eventsOf (.dspSendData 0 1) (after (.setRecvDataHandler 0 10) (after (.setRecvDataHandler 0 9) base))
    = [.hostCb 10 (.data .s0)] := by decide
theorem test_APB_10 : (nextOr (step (calling base (word 0x06200005))) base).hist = [.faultEv .encoding] := by decide
theorem test_P1 : (run1 (after (.sendData 0 0x1234) (after (.setRecvDataHandler 0 9) base)) [word 0x21000000, word 0x20001235]).hist =
    [.raise 0xE, .deliver .direct 0xE, .stepBegin 1, .result .processor 0x1234, .hostCb 9 (.data .s0)] := by decide
theorem test_P1_ready : eventsOf (.recvDataIsReady 0) { base with d2c := { base.d2c with ready := ⟨true, false, false⟩ } }
    = [.result .host 1] := by decide
theorem test_BTD_2 : (after (.btdmpCfg .u0 true 0) base).fault = some .btdmpPeriodZero := by decide
theorem test_BTD_cfg : (after (.btdmpCfg .u1 true 4) base).btdmp.u1 = ⟨true, 4, 4, 0⟩ := by decide
theorem test_BTD_3 : eventsOf (.btdmpTick .u1) base = [] := by decide
theorem test_BTD_5 : (after (.btdmpTick .u0) { base with btdmp := ⟨⟨true, 2, 1, 0⟩, btdmpZero 0⟩ }).btdmp.u0 = ⟨true, 2, 2, 0⟩ := by
  decide
theorem test_ENG_1 : (after (.run 0) base).steps = 0 ∧ eventsOf (.run 0) base = [] := by decide
theorem test_ENG_3 : (run1 base [word 0x06000001]).hist = [.stepBegin 1, .faultEv .agent] := by decide
theorem test_ENG_4 : eventsOf (.hostMemRead 0x10) (after (.hostMemWrite 0x7F 0x10) base) = [.result .host 0x7F] := by decide
theorem test_ENG_5 : eventsOf (.hostMemRead 0x1000) base = [.faultEv .memRange] := by decide
theorem test_ENG_7 : (run1 base [⟨0x2B000001, 0x20, 0, 0⟩]).mem = [(0x20, 1)] := by decide
theorem test_ENG_8 : (run1 { base with mem := [(0x40, 0x33)] } [⟨0x2A000000, 0x40, 0, 0⟩]).hist
    = [.stepBegin 1, .result .processor 0x33] := by decide
theorem test_ENG_9 : (run1 { base with timer := ⟨⟨true, 1, 1⟩, Timer.zero⟩ } [word 0x20000001]).hist
    = [.stepBegin 1, .raise 0xA, .deliver .direct 0xA] := by decide
theorem test_ENC_4 : eventsOf .reset { base with fault := some .index } = [] := by decide
theorem test_ENC_5 : eventsOf (.sendData 0 1) { base with fault := some .index } = [] := by decide
theorem test_RST_1 : (after .reset { base with ahbm := ⟨some 7⟩, d2c := { base.d2c with semH := .host 9 } }).d2c.semH = .host 9 := by
  decide
theorem test_RST_4 : (run1 base [word 0x01000000]).hist = [.stepBegin 1, .faultEv .agent] := by decide

/-- The word of a table row is the next to be executed, inside the host transaction that its agent needs (R119). -/
def fetched (s : State) (nbits w : Nat) : State := nextOr (step (s.withFetchWord nbits w)) s

theorem test_fetch_host : (fetched State.reset 64 0x100400007F).mem = [(0x10, 0x7F)] := by decide
theorem test_fetch_illegal : (fetched State.reset 32 0xFF000000).hist = [.faultEv .encoding] := by decide
theorem test_fetch_processor : (fetched State.reset 64 0xA27100000).timer.u0 = ⟨true, 10, 9⟩ := by decide
theorem test_fetch_trigger : (fetched State.reset 32 0x400A0000).hist = [.raise 0xA, .deliver .direct 0xA] := by decide
theorem test_fetch_tick :
    (fetched { base with timer := ⟨⟨true, 1, 1⟩, Timer.zero⟩ } 32 0x42000000).hist =
      [.stepBegin 1, .raise 0xA, .deliver .direct 0xA] := by decide
theorem test_fetch_extWrite : (fetched { base with ahbm := ⟨some 7⟩ } 64 0x20004500005A).hist =
    [.stepBegin 1, .extWr 0x2000 0x5A, .raise 0xF, .deliver .direct 0xF] := by decide

/-! Witnesses: for each statement with hypotheses, a concrete state and operands that meet them together, one for each of
its clauses, at the edges of their ranges. -/

/-- A block that uses everything: a byte listed, a running timer, a full slot, a host handler, a callback, a history. -/
def busy : State := { base with
  mem := [(0x10, 0x7F), (0xFFF, 1)]
  timer := ⟨⟨true, 3, 1⟩, ⟨true, 0xFFFFFFFF, 2⟩⟩
  btdmp := ⟨⟨true, 2, 1, 0⟩, ⟨true, 2, 2, 0⟩⟩
  c2d := { base.c2d with data := ⟨5, 0, 0⟩, ready := ⟨true, false, false⟩ }
  d2c := { base.d2c with dataH := ⟨.host 9, .none, .none⟩, semH := .host 4 }
  ahbm := ⟨some 7⟩
  hist := [.raise 0xE, .deliver .direct 0xE]  }

/-- The same block with a vector being triggered: no run reaches it, and the statements hold in it. -/
def reentrant : State := { busy with icu := { busy.icu with active := vecSet Icu.idle 0xE true } }

/-- The same with the Processor's channel wired to the ICU too, which no transaction does. -/
def rewired : State := { reentrant with
  d2c := { reentrant.d2c with dataH := ⟨.icu 0xE, .none, .none⟩, semH := .icu 0xE } }

/-- The busy block with the vectors of Timer0 and of the Btdmp units being triggered. -/
def caught : State := { busy with icu := { busy.icu with active := vecSet (vecSet Icu.idle 0xA true) 0xB true } }

/-- A fault raised. -/
def faulted : State := { busy with fault := some .index, hist := busy.hist ++ [.faultEv .index] }

theorem witness_DecodeOfEncodeIsTheInstruction :
    Instr.wellFormed (.icuSetRoute 0xF 2) = true ∧ Instr.wellFormed (.timerCfg .u1 false 0) = true ∧
    Instr.wellFormed (.btdmpCfg .u0 true 0xFFFFFFFF) = true := by decide

theorem witness_LegalWordIsTheEncodingOfItsInstruction :
    decode ⟨0x26100000, 0xFFFFFFFF, 0, 1⟩ = .ok (.dmaStart .fromExt 0xFFFFFFFF 0 1) := by decide

theorem witness_StepRunsTheDecodedInstruction :
    (calling busy (word 0x06001234)).io.calls = [word 0x06001234] ∧
    (calling busy (word 0x06001234)).fault = none ∧ decode (word 0x06001234) = .ok (.sendData 0 0x1234) ∧
    Instr.agent (.sendData 0 0x1234) = .host := by decide

theorem witness_IllegalWordFaultsEncoding_word :
    (calling busy (word 0x06200005)).io.calls = [word 0x06200005] ∧
    (calling busy (word 0x06200005)).fault = none ∧ decode (word 0x06200005) = .error .unusedField := by decide

theorem witness_IllegalWordFaultsEncoding_op (i : Instr) : i.header.op ≠ (Header.ofWord 0x0E000000).op := by
  cases i <;> (intro h; exact absurd h (by simp [Instr.header, Header.ofWord]))

theorem witness_WrongAgentFaultsAgent_port :
    (calling busy (word 0x400A0000)).io.calls = [word 0x400A0000] ∧
    (calling busy (word 0x400A0000)).fault = none ∧ decode (word 0x400A0000) = .ok (.triggerSingle 0xA) ∧
    Instr.agent (.triggerSingle 0xA) ≠ .host := by decide

theorem witness_WrongAgentFaultsAgent_action :
    (scripted busy [some (.act 1 (word 0x06000001))]).fault = none ∧
    (scripted busy [some (.act 1 (word 0x06000001))]).io.script = some (.act 1 (word 0x06000001)) :: [] ∧
    decode (word 0x06000001) = .ok (.sendData 0 1) ∧ Instr.agent (.sendData 0 1) ≠ .processor := by decide

theorem witness_IdleBlockKeepsItsState : busy.io.calls = [] := by decide

theorem witness_FaultedBlockIgnoresEveryTransaction : faulted.fault = some .index := by decide

/-- The call of the witnesses of the invariants: a write of the host, on the busy block. -/
def writing : State := calling busy ⟨0x04000000, 0x10, 0, 0⟩

theorem witness_step : ∃ t, step writing = .next t := goesOn_iff (by decide)

theorem witness_MemoryStaysCanonical : writing.memWf = true ∧ ∃ t, step writing = .next t :=
  ⟨by decide, witness_step⟩
theorem witness_RunningTimersStayInRange : writing.quiet = true ∧ writing.timersWf = true ∧ ∃ t, step writing = .next t :=
  ⟨by decide, by decide, witness_step⟩
theorem witness_QuietBetweenTransactions : writing.quiet = true ∧ ∃ t, step writing = .next t :=
  ⟨by decide, witness_step⟩
theorem witness_WiringIsKept : writing.wired = true ∧ ∃ t, step writing = .next t :=
  ⟨by decide, witness_step⟩
theorem witness_StepsAreCounted : writing.stepsCounted = true ∧ ∃ t, step writing = .next t :=
  ⟨by decide, witness_step⟩
theorem witness_EveryTriggerIsAnsweredOnce : writing.triggersAnswered 0xE = true ∧ ∃ t, step writing = .next t :=
  ⟨by decide, witness_step⟩
theorem witness_FaultIsTheLastEvent : writing.faultRecorded = true ∧ ∃ t, step writing = .next t :=
  ⟨by decide, witness_step⟩
theorem witness_FaultIsTheLastEvent_faulted :
    faulted.faultRecorded = true ∧ goesOn (step (calling faulted (word 0x01000000))) = true := by decide
theorem witness_OnlyWiredVectorsAreRaised :
    writing.wired = true ∧ (∃ t, step writing = .next t) ∧
    (0x0 : Vec) ∉ wiredVecs ∧ (0x8 : Vec) ∉ wiredVecs ∧ (0xC : Vec) ∉ wiredVecs ∧ (0xD : Vec) ∉ wiredVecs :=
  ⟨by decide, witness_step, by decide⟩
theorem witness_PeriodicAuxStaysTheUnitValue : writing.auxUnit = true ∧ ∃ t, step writing = .next t :=
  ⟨by decide, witness_step⟩
theorem witness_ParametersNeverChange : ∃ t, step writing = .next t := witness_step
theorem witness_HistoryOnlyGrows : ∃ t, step writing = .next t := witness_step

/-- A step that does more than write a byte: a run in which a timer and a Btdmp unit fire. -/
theorem witness_step_run : ∃ t, step (scripted (calling busy ⟨0x02000000, 1, 0, 0⟩) (stepOf [word 0x20000001])) = .next t :=
  goesOn_iff (by decide)

theorem witness_ConstructionMeetsTheInvariants : ∃ c, c = Params.reference := ⟨_, rfl⟩

theorem witness_RouteIsWrittenBySetRouteAndReset :
    (∃ t, exec (.icuSetRoute 0xE 2) busy = .next t) ∧ (after (.icuSetRoute 0xE 2) busy).icu.route ≠ busy.icu.route :=
  ⟨goesOn_iff (by decide), by decide⟩

theorem witness_HostOperationsLeaveThePeripherals :
    Instr.agent (.sendData 0 1) = .host ∧ Instr.sendData 0 1 ≠ .reset ∧ (∀ n, Instr.sendData 0 1 ≠ .run n) ∧
    ∃ t, exec (.sendData 0 1) busy = .next t :=
  ⟨by decide, by decide, fun _ h => (by cases h), goesOn_iff (by decide)⟩

theorem witness_HandlersChangeByTheHostsInstallsAlone :
    (∃ t, exec .reset busy = .next t) ∧ (∀ k x, Instr.reset ≠ .setRecvDataHandler k x) ∧
    (∀ x, Instr.reset ≠ .setSemaphoreHandler x) ∧ ∀ x, Instr.reset ≠ .setAhbmCallback x :=
  ⟨goesOn_iff (by decide), fun _ _ h => (by cases h), fun _ h => (by cases h), fun _ h => by cases h⟩

theorem witness_ProcessorStateIsNeverInspected :
    Instr.sendData 0 1 ≠ .procStep ∧ (∀ n, Instr.sendData 0 1 ≠ .run n) ∧ ∃ t, exec (.sendData 0 1) busy = .next t :=
  ⟨by decide, fun _ h => (by cases h), goesOn_iff (by decide)⟩

theorem witness_TriggerDeliversByItsRoute_reentrant :
    reentrant.fault = none ∧ vecGet reentrant.icu.active 0xE = true := by decide
theorem witness_TriggerDeliversByItsRoute :
    busy.fault = none ∧ vecGet reentrant.icu.active 0xF = false ∧ vecGet busy.icu.route 0xF = .direct ∧
    vecGet (routing busy 0x0 .vectored).icu.route 0x0 = .vectored ∧
    vecGet (routing busy 0xF .masked).icu.route 0xF = .masked ∧
    vecGet (routing busy 0xF .masked).icu.active 0xF = false := by decide

theorem witness_SetRouteWritesOneRoute :
    busy.fault = none ∧ (2 : BitVec 2) ≠ 3 ∧ (0xE : Vec) ≠ 0xF ∧
    ((0 : BitVec 2), Route.direct) ∈ [((0 : BitVec 2), Route.direct), (1, .vectored), (2, .masked)] ∧
    ((2 : BitVec 2), Route.masked) ∈ [((0 : BitVec 2), Route.direct), (1, .vectored), (2, .masked)] := by decide

/-- The premise of every statement about a block without a fault. -/
theorem witness_fault_none : busy.fault = none ∧ reentrant.fault = none := by decide

theorem witness_HandlerCallDoesWhatItsKindSays : busy.fault = none := by decide

theorem witness_TimerCfgStartsStopsOrFaults : busy.fault = none ∧ (1 : Word) ≠ 0 ∧ (0xFFFFFFFF : Word) ≠ 0 := by decide

theorem witness_TimerTickCountsAndFires_disabled : (base.timer.get .u0).running = false ∧ base.fault = none := by decide
theorem witness_TimerTickCountsAndFires_counts :
    busy.fault = none ∧ (busy.timer.get .u1).running = true ∧ (busy.timer.get .u1).counter ≠ 1 := by decide
theorem witness_TimerTickCountsAndFires_fires :
    busy.fault = none ∧ (busy.timer.get .u0).running = true ∧ (busy.timer.get .u0).counter = 1 ∧ vecGet busy.icu.active 0xA = false := by decide

theorem witness_TimerTickCountsAndFires_caught :
    caught.fault = none ∧ (caught.timer.get .u0).running = true ∧ (caught.timer.get .u0).counter = 1 ∧
    vecGet caught.icu.active 0xA = true := by decide

theorem witness_TimerFiresOncePerPeriod :
    { base with timer := ⟨⟨true, 1, 1⟩, Timer.zero⟩ : State }.fault = none ∧ (1 : Word) ≠ 0 ∧
    { base with timer := ⟨⟨true, 1, 1⟩, Timer.zero⟩ : State }.timer.get .u0 = ⟨true, 1, 1⟩ ∧
    vecGet { base with timer := ⟨⟨true, 1, 1⟩, Timer.zero⟩ : State }.icu.active (timerVec .u0) = false := by decide

theorem witness_BtdmpCfgStartsStopsOrFaults : busy.fault = none ∧ (1 : Word) ≠ 0 := by decide

theorem witness_BtdmpTickFollowsItsPolicy_disabled :
    base.fault = none ∧ vecGet base.icu.active 0xB = false ∧ (base.btdmp.get .u1).enabled = false := by decide
theorem witness_BtdmpTickFollowsItsPolicy_fires :
    busy.fault = none ∧ vecGet busy.icu.active 0xB = false ∧
    (fireStep busy.cfg.btdmpPolicy (busy.btdmp.get .u0)).2 = true ∧ busy.cfg.btdmpPolicy = .periodic ∧
    (busy.btdmp.get .u0).enabled = true ∧ (busy.btdmp.get .u0).counter = 1 := by decide
theorem witness_BtdmpTickFollowsItsPolicy_caught :
    caught.fault = none ∧ vecGet caught.icu.active 0xB = true ∧
    (fireStep caught.cfg.btdmpPolicy (caught.btdmp.get .u0)).2 = true := by decide
theorem witness_BtdmpTickFollowsItsPolicy_counts :
    busy.fault = none ∧ vecGet busy.icu.active 0xB = false ∧ busy.cfg.btdmpPolicy = .periodic ∧
    (fireStep busy.cfg.btdmpPolicy (busy.btdmp.get .u1)).2 = false ∧ (busy.btdmp.get .u1).enabled = true ∧
    (busy.btdmp.get .u1).counter ≠ 1 := by decide

/-- The last run of SharedMemory and of the external space, and the empty run past the last byte. -/
theorem witness_DmaOutWritesEveryByteInOrder :
    busy.fault = none ∧ (0xFFC : Word).toNat + (4 : Word).toNat ≤ busy.cfg.shmemSize ∧
    (0xFFFFFFFC : Word).toNat + (4 : Word).toNat ≤ 2 ^ 32 ∧ (0x1000 : Word).toNat + (0 : Word).toNat ≤ busy.cfg.shmemSize ∧
    vecGet busy.icu.active 0xF = false ∧ busy.ahbm.cb = some 7 := by decide
theorem witness_DmaOutWritesEveryByteInOrder_none :
    base.fault = none ∧ (0xFFC : Word).toNat + (4 : Word).toNat ≤ base.cfg.shmemSize ∧
    (0xFFFFFFFC : Word).toNat + (4 : Word).toNat ≤ 2 ^ 32 ∧ vecGet base.icu.active 0xF = false ∧ base.ahbm.cb = none := by decide
theorem witness_DmaInWithoutCallbackClearsTheRun :
    { busy with ahbm := ⟨none⟩ : State }.fault = none ∧ { busy with ahbm := ⟨none⟩ : State }.mem.wf = true ∧
    (0xFFC : Word).toNat + (4 : Word).toNat ≤ { busy with ahbm := ⟨none⟩ : State }.cfg.shmemSize ∧
    (0xFFFFFFFC : Word).toNat + (4 : Word).toNat ≤ 2 ^ 32 ∧
    vecGet { busy with ahbm := ⟨none⟩ : State }.icu.active 0xF = false ∧ { busy with ahbm := ⟨none⟩ : State }.ahbm.cb = none ∧
    (0xFFC : Word).toNat ≤ 0xFFF ∧ 0xFFF < (0xFFC : Word).toNat + (4 : Word).toNat := by decide
theorem witness_DmaInStoresTheHostsAnswersInOrder :
    (answering busy [1, 2]).fault = none ∧ (answering busy [1, 2]).mem.wf = true ∧
    (0xFFC : Word).toNat + (4 : Word).toNat ≤ (answering busy [1, 2]).cfg.shmemSize ∧
    (0xFFFFFFFC : Word).toNat + (4 : Word).toNat ≤ 2 ^ 32 ∧
    vecGet (answering busy [1, 2]).icu.active 0xF = false ∧ (answering busy [1, 2]).ahbm.cb = some 7 := by decide
theorem witness_DmaOutOfRangeFaultsBeforeAnyByte :
    busy.fault = none ∧ busy.cfg.shmemSize < (0xFFD : Word).toNat + (4 : Word).toNat ∧
    (0 : Word).toNat + (2 : Word).toNat ≤ busy.cfg.shmemSize ∧ 2 ^ 32 < (0xFFFFFFFF : Word).toNat + (2 : Word).toNat := by decide

theorem witness_ExtReadReturnsDefaultOrAnswer :
    base.fault = none ∧ base.ahbm.cb = none ∧ busy.ahbm.cb = some 7 ∧ busy.io.answers = [] ∧
    (answering busy [0x9C]).ahbm.cb = some 7 ∧ (answering busy [0x9C]).io.answers = 0x9C :: [] := by decide
theorem witness_ExtWriteIsRecordedOrDropped : base.fault = none ∧ base.ahbm.cb = none ∧ busy.ahbm.cb = some 7 := by decide

/-- The three slots, with the ICU's handler, a host's and none. -/
theorem witness_SendFillsTheSlotAndCallsItsHandler :
    busy.fault = none ∧ busy.wired = true ∧ busy.mayCall (busy.c2d.dataH.get .s0) = true ∧ busy.mayCall (busy.c2d.dataH.get .s2) = true ∧
    busy.mayCall (busy.d2c.dataH.get .s0) = true ∧ busy.mayCall (busy.d2c.dataH.get .s1) = true ∧
    ((0 : BitVec 2), Slot.s0) ∈ [((0 : BitVec 2), Slot.s0), (1, .s1), (2, .s2)] ∧
    ((2 : BitVec 2), Slot.s2) ∈ [((0 : BitVec 2), Slot.s0), (1, .s1), (2, .s2)] := by decide
theorem witness_SendFillsTheSlotAndCallsItsHandler_reentrant :
    rewired.fault = none ∧ rewired.mayCall (rewired.c2d.dataH.get .s2) = false ∧
    rewired.mayCall (rewired.d2c.dataH.get .s0) = false ∧ rewired.mayCall rewired.c2d.semH = false ∧
    rewired.mayCall rewired.d2c.semH = false := by decide
/-- An index and its slot, at each of the three. -/
theorem witness_slots : busy.fault = none ∧
    ((0 : BitVec 2), Slot.s0) ∈ [((0 : BitVec 2), Slot.s0), (1, .s1), (2, .s2)] ∧
    ((1 : BitVec 2), Slot.s1) ∈ [((0 : BitVec 2), Slot.s0), (1, .s1), (2, .s2)] ∧
    ((2 : BitVec 2), Slot.s2) ∈ [((0 : BitVec 2), Slot.s0), (1, .s1), (2, .s2)] := by decide
theorem witness_ReadyQueriesHaveNoSideEffect : busy.fault = none ∧
    ((2 : BitVec 2), Slot.s2) ∈ [((0 : BitVec 2), Slot.s0), (1, .s1), (2, .s2)] := by decide
theorem witness_ReceiveConsumesTheFlagAndKeepsTheValue : busy.fault = none ∧
    ((2 : BitVec 2), Slot.s2) ∈ [((0 : BitVec 2), Slot.s0), (1, .s1), (2, .s2)] := by decide
theorem witness_HostInstallsReplaceTheHandler : busy.fault = none ∧
    ((2 : BitVec 2), Slot.s2) ∈ [((0 : BitVec 2), Slot.s0), (1, .s1), (2, .s2)] := by decide
theorem witness_GetSemaphoreConsumesTheFlag : busy.fault = none := by decide
theorem witness_SentValueIsReceivedTwice :
    busy.fault = none ∧ ((0 : BitVec 2), Slot.s0) ∈ [((0 : BitVec 2), Slot.s0), (1, .s1), (2, .s2)] ∧
    busy.mayCall (busy.c2d.dataH.get .s0) = true ∧ busy.mayCall (busy.d2c.dataH.get .s0) = true := by decide
theorem witness_SetSemaphoreWritesAndCallsItsHandler :
    busy.fault = none ∧ busy.mayCall busy.c2d.semH = true ∧ busy.mayCall busy.d2c.semH = true := by decide
theorem witness_SlotIndexThreeFaults :
    busy.fault = none ∧ Instr.dspSendData 3 5 ∈ [Instr.sendDataIsEmpty 3, .sendData 3 5, .recvDataIsReady 3,
    .recvData 3, .setRecvDataHandler 3 5, .dspSendData 3 5, .dspRecvData 3, .dspIsDataReady 3, .dspOutIsReady 3] := by decide

theorem witness_MemoryReadsReturnTheByte :
    busy.fault = none ∧ (0xFFF : Word).toNat < busy.cfg.shmemSize ∧ busy.cfg.shmemSize ≤ (0x1000 : Word).toNat := by decide
theorem witness_MemoryWritesChangeOneByte :
    busy.fault = none ∧ busy.mem.wf = true ∧ (0xFFF : Word).toNat < busy.cfg.shmemSize ∧
    busy.cfg.shmemSize ≤ (0x1000 : Word).toNat ∧ 0xFFE ≠ (0xFFF : Word).toNat := by decide
theorem witness_MemoriesThatReadAlikeAreEqual :
    busy.mem.wf = true ∧ Memory.wf [(0x10, 0x7F), (0xFFF, 1)] = true ∧
    ∀ a : Nat, busy.mem.get a = Memory.get [(0x10, 0x7F), (0xFFF, 1)] a := ⟨by decide, by decide, fun _ => rfl⟩

theorem witness_ProcStepWithoutActions :
    (scripted busy [some (.done 1)]).fault = none ∧ (scripted busy [some (.done 1)]).io.script = some (.done 1) :: [] := by decide

/-- The state in which the Processor's action is executed. -/
def acting (t : Words) : State := { scripted busy [some (.act 1 t), some (.done 2)] with
  steps := 1, hist := busy.hist ++ [.stepBegin 1], proc := 1, io := { busy.io with script := [some (.done 2)] } }

theorem witness_ProcStepExecutesItsAction :
    (scripted busy [some (.act 1 (word 0x20000001)), some (.done 2)]).fault = none ∧
    (scripted busy [some (.act 1 (word 0x20000001)), some (.done 2)]).io.script =
      some (.act 1 (word 0x20000001)) :: some (.done 2) :: [] ∧
    decode (word 0x20000001) = .ok (.dspSendData 0 1) ∧ Instr.agent (.dspSendData 0 1) = .processor ∧
    goesOn (exec (.dspSendData 0 1) (acting (word 0x20000001))) = true ∧
    (after (.dspSendData 0 1) (acting (word 0x20000001))).fault = none := by decide
theorem witness_ProcStepExecutesItsAction_fault :
    decode (word 0x20C00001) = .ok (.dspSendData 3 1) ∧
    goesOn (exec (.dspSendData 3 1) (acting (word 0x20C00001))) = true ∧
    (after (.dspSendData 3 1) (acting (word 0x20C00001))).fault ≠ none := by decide
theorem witness_ProcStepFaultsOnAnIllegalAction :
    (scripted busy [some (.act 1 (word 0x290E0003))]).fault = none ∧
    (scripted busy [some (.act 1 (word 0x290E0003))]).io.script = some (.act 1 (word 0x290E0003)) :: [] ∧
    decode (word 0x290E0003) = .error .routeReserved := by decide
theorem witness_ProcessorWithoutMoveIsStuck :
    (scripted busy [none]).fault = none ∧ (scripted busy [none]).io.script = none :: [] ∧
    (scripted busy [none]).quiet = true ∧ (1 : Word) ≠ 0 := by decide

theorem witness_RunIsTheRepeatedSequence :
    busy.fault = none ∧ busy.eng = ⟨false, false⟩ ∧ (busy.setInRun true).eng.inRun = true ∧
    (busy.setInHandler true).eng.inHandler = true := by decide
theorem witness_RunOfIdleStepsCompletes :
    (scripted busy [some (.done 5), some (.done 6), none]).fault = none ∧
    (scripted busy [some (.done 5), some (.done 6), none]).quiet = true ∧ ([5, 6] : List ProcState).length = (2 : Word).toNat ∧
    (scripted busy [some (.done 5), some (.done 6), none]).io.script = ([5, 6] : List ProcState).map (fun p => some (.done p)) ++ [none] ∧
    ([] : List ProcState).length = (0 : Word).toNat := by decide
theorem witness_RunFiresTheTimerOncePerPeriod :
    (scripted { busy with timer := ⟨⟨true, 1, 1⟩, Timer.zero⟩ } [some (.done 5)]).fault = none ∧
    (scripted { busy with timer := ⟨⟨true, 1, 1⟩, Timer.zero⟩ } [some (.done 5)]).quiet = true ∧
    (scripted { busy with timer := ⟨⟨true, 1, 1⟩, Timer.zero⟩ } [some (.done 5)]).io.script =
      ([5] : List ProcState).map (fun p => some (.done p)) ++ [] ∧
    ([5] : List ProcState).length = (1 : Word).toNat ∧ (1 : Word) ≠ 0 ∧
    (scripted { busy with timer := ⟨⟨true, 1, 1⟩, Timer.zero⟩ } [some (.done 5)]).timer.get .u0 = ⟨true, 1, 1⟩ := by decide

theorem witness_ResetRestoresEveryField : busy.fault = none := by decide
theorem witness_SecondResetChangesOnlyHistoryAndProcessor : busy.fault = none ∧ ∃ t, exec .reset busy = .next t :=
  ⟨by decide, goesOn_iff (by decide)⟩

end Sys2Proof.Tests
end

section
/-! PROOFS. The family of 00_scope: the call a step runs (R12, R119) and the open parameters of R7, with what the policy
`Periodic` fixes of a Btdmp unit (R96). The two invariants follow move by move. -/

namespace Sys2Proof.Machine

variable {op : Instr} {s t : State}

/-! The parameters. -/

@[simp] theorem setApbp_cfg (s : State) (c : Chan) (p : Apbp) : (s.setApbp c p).cfg = s.cfg := by cases c <;> rfl

@[simp] theorem setApbp_btdmp (s : State) (c : Chan) (p : Apbp) : (s.setApbp c p).btdmp = s.btdmp := by cases c <;> rfl

/-- No move writes a parameter of the block. -/
theorem Move.cfg (h : Move op s t) : t.cfg = s.cfg := by
  cases h with
  | apbp c p => exact setApbp_cfg s c p
  | _ => rfl

/-! The streaming state under `Periodic`. -/

theorem auxUnit_iff (s : State) : s.auxUnit = true ↔
    (s.cfg.btdmpPolicy = .periodic → ∀ k, (s.btdmp.get k).aux = Config.btdmpAuxUnit) := by
  have units : (∀ k, (s.btdmp.get k).aux = Config.btdmpAuxUnit) ↔
      s.btdmp.u0.aux = Config.btdmpAuxUnit ∧ s.btdmp.u1.aux = Config.btdmpAuxUnit :=
    ⟨fun h => ⟨h .u0, h .u1⟩, fun ⟨h0, h1⟩ k => by cases k <;> assumption⟩
  simp [State.auxUnit, units, Decidable.imp_iff_not_or]

/-- The firing rule of `Periodic` leaves `aux` as it is (R96). -/
theorem fireStep_periodic_aux (u : Btdmp) : (fireStep .periodic u).1.aux = u.aux := by
  cases he : u.enabled with
  | false => rw [fireStep_disabled he]
  | true => rw [fireStep_periodic he]; unfold periodicFire; dsimp only; split <;> rfl

/-- Writing a unit that, under `Periodic`, keeps its `aux` keeps the invariant. -/
theorem setBtdmp_auxUnit {k : UnitId} {u : Btdmp} (hs : s.auxUnit = true)
    (hu : s.cfg.btdmpPolicy = .periodic → u.aux = (s.btdmp.get k).aux) : (s.setBtdmp k u).auxUnit = true := by
  rw [auxUnit_iff] at hs ⊢
  intro hp j
  by_cases hj : j = k
  · subst hj; simpa using (hu hp).trans (hs hp j)
  · simpa [PerUnit.get_set_ne _ _ hj] using hs hp j

/-- A reset gives both units `BTDMP_AUX_RESET`, under `Periodic` the unit value (R7, R127). -/
theorem resetBlock_auxUnit (s : State) : (resetBlock s).auxUnit = true := by
  rw [auxUnit_iff]
  intro (hp : s.cfg.btdmpPolicy = .periodic) k
  cases k <;> exact btdmpAuxReset_periodic hp

/-- Of all the moves only those of a Btdmp unit and a reset write a unit. -/
theorem Move.auxUnit (h : Move op s t) (hs : s.auxUnit = true) : t.auxUnit = true := by
  cases h with
  | btdmpStart k q => exact setBtdmp_auxUnit hs fun _ => rfl
  | btdmpStop k => exact setBtdmp_auxUnit hs fun _ => rfl
  | btdmpFire k => exact setBtdmp_auxUnit hs fun hp => by rw [hp, fireStep_periodic_aux]
  | reset => exact resetBlock_auxUnit s
  | apbp c p => simpa [State.auxUnit] using hs
  | _ => exact hs

/-- Settles O60, move by move: only the Btdmp units' own moves and a reset write `aux`, and each leaves the unit value. -/
theorem periodicAuxStaysTheUnitValue : Obligations.PeriodicAuxStaysTheUnitValue :=
  fun _ _ hs h => step_keeps (I := fun u => u.auxUnit = true) (fun _ _ _ hm => hm.auxUnit) (fun _ _ _ hu => hu)
    (fun _ _ hu => hu) h hs

/-- Settles O14, move by move: the parameters of the state before the step are kept. -/
theorem parametersNeverChange : Obligations.ParametersNeverChange :=
  fun s _ h => step_keeps (I := fun u => u.cfg = s.cfg) (fun _ _ _ hm hu => hm.cfg.trans hu) (fun _ _ _ hu => hu)
    (fun _ _ hu => hu) h rfl

/-! The call a step runs. -/

/-- A state with a call waiting is the state without it, in front of whose calls it has been placed. -/
theorem placeCall_taken {w : Words} {rest : List Words} (hc : s.io.calls = w :: rest) :
    placeCall w { s with io := { s.io with calls := rest } } = s := by
  simp [placeCall, State.setIo, ← hc]

/-- Settles O5: the waiting call is one placed in front of the state without it. -/
theorem stepRunsTheDecodedInstruction : Obligations.StepRunsTheDecodedInstruction := by
  intro s w rest i hc hf hd ha
  have h := step_placeCall (s := { s with io := { s.io with calls := rest } }) hf hd ha
  rwa [placeCall_taken hc] at h

end Sys2Proof.Machine
end

section
/-! PROOFS. The family of 10_state, its invariants: what every step keeps of the record of R14. Each follows move by move
from what a move does to the fields that the invariant speaks of. -/

namespace Sys2Proof.Machine

variable {op : Instr} {s t : State}

/-! What a write of one side of the Apbp leaves. -/

@[simp] theorem setApbp_mem (s : State) (c : Chan) (p : Apbp) : (s.setApbp c p).mem = s.mem := by cases c <;> rfl
@[simp] theorem setApbp_icu (s : State) (c : Chan) (p : Apbp) : (s.setApbp c p).icu = s.icu := by cases c <;> rfl
@[simp] theorem setApbp_ahbm (s : State) (c : Chan) (p : Apbp) : (s.setApbp c p).ahbm = s.ahbm := by cases c <;> rfl
@[simp] theorem setApbp_eng (s : State) (c : Chan) (p : Apbp) : (s.setApbp c p).eng = s.eng := by cases c <;> rfl
@[simp] theorem setApbp_steps (s : State) (c : Chan) (p : Apbp) : (s.setApbp c p).steps = s.steps := by cases c <;> rfl
@[simp] theorem setApbp_hist (s : State) (c : Chan) (p : Apbp) : (s.setApbp c p).hist = s.hist := by cases c <;> rfl

/-! Steps by their operations. -/

/-- What every operation keeps, a step keeps, if the first fault and the taking of a call keep it. -/
theorem step_keeps_of_exec {I : State → Prop} (he : ∀ i u w, exec i u = .next w → I u → I w)
    (hr : ∀ u c, u.fault = none → I u → I (u.raise c)) (hio : ∀ u p, I u → I (u.setIo p))
    (h : step s = .next t) (hi : I s) : I t := by
  obtain ⟨_, rfl⟩ | ⟨w, rest, _, ⟨_, rfl⟩ | ⟨hf, ⟨code, rfl⟩ | ⟨i, _, _, h⟩⟩⟩ := step_cases h
  · exact hi
  · exact hio _ _ hi
  · exact hr _ _ hf (hio _ _ hi)
  · exact he _ _ _ h (hio _ _ hi)

/-- What every move of one operation and a raise leave as it is, the operation leaves as it is. -/
theorem exec_frame {α : Type} {f : State → α} {i : Instr} (hm : ∀ u w, Move i u w → f w = f u)
    (hr : ∀ u c, f (u.raise c) = f u) (h : exec i s = .next t) : f t = f s := by
  have path {w : State} (hp : Path i s w) : f w = f s :=
    hp.keeps (I := fun u => f u = f s) (fun _ _ h hu => (hm _ _ h).trans hu) rfl
  obtain ⟨_, rfl⟩ | ⟨_, hp | ⟨u, c, hp, rfl⟩⟩ := exec_reaches h
  · rfl
  · exact path hp
  · exact (hr u c).trans (path hp)

/-! SharedMemory. -/

theorem memWf_iff (s : State) : s.memWf = true ↔ s.mem.wf = true ∧ s.mem.below s.cfg.shmemSize = true := by
  simp [State.memWf]

/-- Of all the moves only a write in range and a reset write SharedMemory. -/
theorem Move.memWf (h : Move op s t) (hs : s.memWf = true) : t.memWf = true := by
  cases h with
  | mem a b ha =>
    obtain ⟨hwf, hbelow⟩ := (memWf_iff s).1 hs
    exact (memWf_iff _).2 ⟨Memory.put_wf hwf a b, Memory.put_below hbelow ha b⟩
  | reset => rfl
  | apbp c p => simpa [State.memWf] using hs
  | _ => exact hs

/-- Settles O10, move by move. -/
theorem memoryStaysCanonical : Obligations.MemoryStaysCanonical :=
  fun _ _ hs h => step_keeps (I := fun u => u.memWf = true) (fun _ _ _ hm => hm.memWf) (fun _ _ _ hu => hu)
    (fun _ _ hu => hu) h hs

/-! Quiet between transactions. -/

/-- No vector is being triggered and no handler is executing: what `quiet` says but for the run. -/
def State.handlersIdle (s : State) : Prop := s.icu.active = Icu.idle ∧ s.eng.inHandler = false

theorem quiet_iff (s : State) : s.quiet = true ↔ s.handlersIdle ∧ s.eng.inRun = false := by
  simp [State.quiet, State.handlersIdle, and_right_comm]

/-- A trigger and a host callback are whole calls: each move ends with its vector and its handler released. -/
theorem Move.handlersIdle (h : Move op s t) (hs : s.handlersIdle) : t.handlersIdle := by
  cases h with
  | reset => exact ⟨rfl, rfl⟩
  | apbp c p => simpa [State.handlersIdle] using hs
  | _ => exact hs

/-- Only `RUN` enters a run. -/
theorem Move.not_inRun (h : Move op s t) (ho : ∀ n, op ≠ .run n) (hs : s.eng.inRun = false) : t.eng.inRun = false := by
  cases h with
  | inRun b hr => obtain ⟨n, hn⟩ := hr; exact absurd hn (ho n)
  | reset => rfl
  | apbp c p => simpa using hs
  | _ => exact hs

/-- A run that has ended, by completion or by a fault, is not executing (R26, log 9). -/
theorem endRun_not_inRun {e : Eff Unit} (h : (endRun e).outcome = .next t) : t.eng.inRun = false := by
  cases e with
  | done a u => cases h; rfl
  | raised u => cases h; rfl
  | stopped f => cases h

/-- No operation leaves a run executing. -/
theorem exec_not_inRun {i : Instr} (h : exec i s = .next t) (hs : s.eng.inRun = false) : t.eng.inRun = false := by
  by_cases hr : ∃ n, i = .run n
  · obtain ⟨n, rfl⟩ := hr
    cases hf : s.fault with
    | some c => rw [exec_eq_transact, transact_faulted hf] at h; cases h; exact hs
    | none =>
      rw [exec_eq_body hf] at h
      simp only [execBody] at h
      split at h
      · cases h; exact hs
      · exact endRun_not_inRun h
  · have hm : ∀ u w, Move i u w → u.eng.inRun = false → w.eng.inRun = false :=
      fun u w hm => hm.not_inRun fun n hn => hr ⟨n, hn⟩
    obtain ⟨_, rfl⟩ | ⟨_, hp | ⟨u, c, hp, rfl⟩⟩ := exec_reaches h
    · exact hs
    · exact hp.keeps hm hs
    · exact hp.keeps hm hs

/-- Settles O12: the handlers' part move by move, the run's by the operation, because a run is executing between the moves
of `RUN`. -/
theorem quietBetweenTransactions : Obligations.QuietBetweenTransactions := by
  intro s t hs h
  obtain ⟨hh, hr⟩ := (quiet_iff s).1 hs
  refine (quiet_iff t).2 ⟨?_, ?_⟩
  · exact step_keeps (fun _ _ _ hm => hm.handlersIdle) (fun _ _ _ hu => hu) (fun _ _ hu => hu) h hh
  · exact step_keeps_of_exec (I := fun u => u.eng.inRun = false) (fun _ _ _ he => exec_not_inRun he)
      (fun _ _ _ hu => hu) (fun _ _ hu => hu) h hr

/-! Handlers and the Ahbm callback. -/

/-- No move writes a `c2d` handler (R22). -/
theorem Move.c2d_handlers (h : Move op s t) : t.c2d.dataH = s.c2d.dataH ∧ t.c2d.semH = s.c2d.semH := by
  cases h with
  | apbp c p hd hs => cases c with
    | c2d => exact ⟨hd, hs⟩
    | d2c => exact ⟨rfl, rfl⟩
  | _ => exact ⟨rfl, rfl⟩

/-- A `d2c` data handler is written by the host's install alone, which gives it a token (R22). -/
theorem Move.d2c_dataH (h : Move op s t) : t.d2c.dataH = s.d2c.dataH ∨
    (∃ j x, op = .setRecvDataHandler j x) ∧ ∃ k x, t.d2c.dataH = s.d2c.dataH.set k (.host x) := by
  cases h with
  | dataHandler k x ho => exact .inr ⟨ho.imp fun _ h => ⟨x, h⟩, k, x, rfl⟩
  | apbp c p hd => cases c with
    | c2d => exact .inl rfl
    | d2c => exact .inl hd
  | _ => exact .inl rfl

/-- The `d2c` semaphore handler is written by the host's install alone, which gives it a token (R22). -/
theorem Move.d2c_semH (h : Move op s t) :
    t.d2c.semH = s.d2c.semH ∨ ∃ x, op = .setSemaphoreHandler x ∧ t.d2c.semH = .host x := by
  cases h with
  | semHandler x ho => exact .inr ⟨x, ho, rfl⟩
  | apbp c p _ hs => cases c with
    | c2d => exact .inl rfl
    | d2c => exact .inl hs
  | _ => exact .inl rfl

/-- The Ahbm callback is written by the host's install alone (R24). -/
theorem Move.ahbm_callback (h : Move op s t) : t.ahbm = s.ahbm ∨ ∃ x, op = .setAhbmCallback x := by
  cases h with
  | ahbm x ho => exact .inr ⟨x, ho⟩
  | apbp c p => exact .inl (setApbp_ahbm s c p)
  | _ => exact .inl rfl

theorem wired_iff (s : State) : s.wired = true ↔
    ((∀ k, s.c2d.dataH.get k = .icu Config.vecApbp) ∧ s.c2d.semH = .icu Config.vecApbp) ∧
      (∀ k, isIcu (s.d2c.dataH.get k) = false) ∧ isIcu s.d2c.semH = false := by
  have slots {α : Type} (p : PerSlot α) (P : α → Prop) : (∀ k, P (p.get k)) ↔ P p.s0 ∧ P p.s1 ∧ P p.s2 :=
    ⟨fun h => ⟨h .s0, h .s1, h .s2⟩, fun ⟨h0, h1, h2⟩ k => by cases k <;> assumption⟩
  rcases h : s.c2d.dataH with ⟨h0, h1, h2⟩
  simp [State.wired, slots _ (· = Handler.icu Config.vecApbp), slots _ (isIcu · = false), h, and_assoc]

/-- The `c2d` handlers stay, and what is installed on `d2c` is a host token, not the ICU's. -/
theorem Move.wired (h : Move op s t) (hs : s.wired = true) : t.wired = true := by
  obtain ⟨hc2d, hdata, hsem⟩ := (wired_iff s).1 hs
  refine (wired_iff t).2 ⟨?_, fun j => ?_, ?_⟩
  · rwa [h.c2d_handlers.1, h.c2d_handlers.2]
  · obtain hd | ⟨_, k, x, hd⟩ := h.d2c_dataH
    · rw [hd]; exact hdata j
    · rw [hd]
      by_cases hj : j = k
      · subst hj; simp [isIcu]
      · rw [PerSlot.get_set_ne _ _ hj]; exact hdata j
  · obtain hd | ⟨x, _, hd⟩ := h.d2c_semH
    · rw [hd]; exact hsem
    · rw [hd]; rfl

/-- Settles O13, move by move. -/
theorem wiringIsKept : Obligations.WiringIsKept :=
  fun _ _ hs h => step_keeps (I := fun u => u.wired = true) (fun _ _ _ hm => hm.wired) (fun _ _ _ hu => hu)
    (fun _ _ hu => hu) h hs

/-- Settles O23: each part is a field that no move of another operation writes. -/
theorem handlersChangeByTheHostsInstallsAlone : Obligations.HandlersChangeByTheHostsInstallsAlone := by
  intro i s t h
  refine ⟨?_, ?_, fun hi => ?_, fun hi => ?_, fun hi => ?_⟩
  · exact exec_frame (f := fun u => u.c2d.dataH) (fun _ _ hm => hm.c2d_handlers.1) (fun _ _ => rfl) h
  · exact exec_frame (f := fun u => u.c2d.semH) (fun _ _ hm => hm.c2d_handlers.2) (fun _ _ => rfl) h
  · exact exec_frame (f := fun u => u.d2c.dataH)
      (fun _ _ hm => hm.d2c_dataH.resolve_right fun ⟨⟨k, x, ho⟩, _⟩ => hi k x ho) (fun _ _ => rfl) h
  · exact exec_frame (f := fun u => u.d2c.semH)
      (fun _ _ hm => hm.d2c_semH.resolve_right fun ⟨x, ho, _⟩ => hi x ho) (fun _ _ => rfl) h
  · exact exec_frame (f := fun u => u.ahbm)
      (fun _ _ hm => hm.ahbm_callback.resolve_right fun ⟨x, ho⟩ => hi x ho) (fun _ _ => rfl) h

/-! The history. -/

theorem triggerEvents_no_fault (v : Vec) (r : Route) : [.raise v, answerEvent v r].any isFaultEv = false := by
  cases r <;> rfl

theorem triggerEvents_no_step (v : Vec) (r : Route) : [.raise v, answerEvent v r].countP isStepBegin = 0 := by
  cases r <;> rfl

/-- What a move does to the history, said once: it appends events, none of them a `FaultEv`, and as many `StepBegin`s as
it counts steps. -/
theorem Move.events (h : Move op s t) :
    ∃ es, t.hist = s.hist ++ es ∧ es.any isFaultEv = false ∧ t.steps = s.steps + es.countP isStepBegin := by
  have unchanged {w : State} (hh : w.hist = s.hist) (hn : w.steps = s.steps) :
      ∃ es, w.hist = s.hist ++ es ∧ es.any isFaultEv = false ∧ w.steps = s.steps + es.countP isStepBegin :=
    ⟨[], by simpa using hh, rfl, hn⟩
  cases h with
  | trigger v | timerExpire k =>
    exact ⟨_, rfl, triggerEvents_no_fault _ _, congrArg (s.steps + ·) (triggerEvents_no_step _ _).symm⟩
  | hostCb | extRd | extWr | result | stepBegin | reset => exact ⟨_, rfl, rfl, rfl⟩
  | apbp c p => exact unchanged (setApbp_hist s c p) (setApbp_steps s c p)
  | _ => exact unchanged rfl rfl

theorem Move.hist_grows (h : Move op s t) : s.hist <+: t.hist := by
  obtain ⟨es, hes, _⟩ := h.events
  exact ⟨es, hes.symm⟩

/-- Settles O15: every move and a raise append to the history. -/
theorem historyOnlyGrows : Obligations.HistoryOnlyGrows :=
  fun s _ h => step_keeps (I := fun u => s.hist <+: u.hist) (fun _ _ _ hm hu => hu.trans hm.hist_grows)
    (fun _ c _ hu => hu.trans ⟨[.faultEv c], rfl⟩) (fun _ _ hu => hu) h ⟨[], List.append_nil _⟩

theorem stepsCounted_iff (s : State) : s.stepsCounted = true ↔ s.hist.countP isStepBegin = s.steps := by
  simp [State.stepsCounted]

theorem Move.stepsCounted (h : Move op s t) (hs : s.stepsCounted = true) : t.stepsCounted = true := by
  obtain ⟨es, hes, _, hn⟩ := h.events
  rw [stepsCounted_iff] at hs ⊢
  rw [hes, hn, List.countP_append, hs]

/-- A `FaultEv` begins no step. -/
theorem raise_stepsCounted (c : FaultCode) (hs : s.stepsCounted = true) : (s.raise c).stepsCounted = true := by
  rw [stepsCounted_iff] at hs ⊢
  simpa [isStepBegin] using hs

/-- Settles O17, move by move. -/
theorem stepsAreCounted : Obligations.StepsAreCounted :=
  fun _ _ hs h => step_keeps (I := fun u => u.stepsCounted = true) (fun _ _ _ hm => hm.stepsCounted)
    (fun _ c _ => raise_stepsCounted c) (fun _ _ hu => hu) h hs

/-! The fault. -/

theorem faultRecorded_iff_of_none (hf : s.fault = none) :
    s.faultRecorded = true ↔ s.hist.any isFaultEv = false := by
  simp [State.faultRecorded, hf]

theorem Move.faultRecorded (h : Move op s t) (hf : s.fault = none) (hs : s.faultRecorded = true) :
    t.faultRecorded = true := by
  obtain ⟨es, hes, hno, _⟩ := h.events
  rw [faultRecorded_iff_of_none hf] at hs
  rw [faultRecorded_iff_of_none ((Path.fault (.single h)).trans hf), hes, List.any_append, hs, hno]
  rfl

/-- A first fault is recorded behind a history without one (R111). -/
theorem raise_faultRecorded (hf : s.fault = none) (c : FaultCode) (hs : s.faultRecorded = true) :
    (s.raise c).faultRecorded = true := by
  rw [faultRecorded_iff_of_none hf] at hs
  simpa [State.faultRecorded, raise_fault_first hf] using hs

/-- A transaction's moves come before its fault, on a block that has none. -/
theorem exec_faultRecorded {i : Instr} (h : exec i s = .next t) (hs : s.faultRecorded = true) :
    t.faultRecorded = true := by
  obtain ⟨_, rfl⟩ | ⟨hf, hl⟩ := exec_reaches h
  · exact hs
  · have path {w : State} (hp : Path i s w) : w.fault = none ∧ w.faultRecorded = true :=
      hp.keeps (I := fun u => u.fault = none ∧ u.faultRecorded = true)
        (fun _ _ hm hu => ⟨(Path.fault (.single hm)).trans hu.1, hm.faultRecorded hu.1 hu.2⟩) ⟨hf, hs⟩
    obtain hp | ⟨u, c, hp, rfl⟩ := hl
    · exact (path hp).2
    · exact raise_faultRecorded (path hp).1 c (path hp).2

/-- Settles O16, by the operation: only the end of a transaction raises a fault, and on a faulted block none runs. -/
theorem faultIsTheLastEvent : Obligations.FaultIsTheLastEvent :=
  fun _ _ hs h => step_keeps_of_exec (I := fun u => u.faultRecorded = true) (fun _ _ _ => exec_faultRecorded)
    (fun _ c hf => raise_faultRecorded hf c) (fun _ _ hu => hu) h hs

/-- Settles O9: every operation is a transaction, and the call of a faulted block is settled when it is taken. -/
theorem faultedBlockIgnoresEveryTransaction : Obligations.FaultedBlockIgnoresEveryTransaction := by
  intro s c hf
  refine ⟨fun i => by rw [exec_eq_transact, transact_faulted hf], ?_⟩
  cases hc : s.io.calls with
  | nil => simp only [step, nextCall, hc, List.tail_nil]; rw [← hc]
  | cons w rest => simp [step, nextCall, admitCall, hc, hf, State.setIo]

/-! The routes. -/

/-- A move that writes a route is one of `ICU_SET_ROUTE`, `RESET` or the Processor's (R17). -/
theorem Move.route_written (h : Move op s t) :
    t.icu.route = s.icu.route ∨ op = .reset ∨ (∃ v r, op = .icuSetRoute v r) ∨ RunsProc op := by
  cases h with
  | route v r ho => exact .inr (.inr ho)
  | reset ho => exact .inr (.inl ho)
  | apbp c p => exact .inl (by simp)
  | _ => exact .inl rfl

/-- Settles O21: under any other operation no move writes a route. -/
theorem routeIsWrittenBySetRouteAndReset : Obligations.RouteIsWrittenBySetRouteAndReset := by
  intro i s t h hne
  by_contra hno
  refine hne (exec_frame (f := fun u => u.icu.route) (fun u w hm => ?_) (fun _ _ => rfl) h)
  refine hm.route_written.resolve_right fun ho => hno ?_
  obtain ho | ho | ho | ho := ho
  · exact .inl ho
  · exact .inr (.inr (.inr ho))
  · exact .inr (.inl ho)
  · exact .inr (.inr (.inl ho))

end Sys2Proof.Machine
end

section
/-! PROOFS. The family of 10_state, SharedMemory and construction: what the canonical form stands for (R29), and the
construction state (R30). -/

namespace Sys2Proof.Machine

/-! SharedMemory. -/

theorem Memory.wf_cons_iff {a : Nat} {b : Byte} {m : Memory} :
    Memory.wf ((a, b) :: m) = true ↔ b ≠ Memory.unlisted ∧ Memory.above a m = true ∧ Memory.wf m = true := by
  simp [Memory.wf, and_assoc]

@[simp] theorem Memory.get_head (a : Nat) (b : Byte) (m : Memory) : Memory.get ((a, b) :: m) a = b := by
  simp [Memory.get]

theorem Memory.get_tail {a c : Nat} (b : Byte) (m : Memory) (h : c ≠ a) : Memory.get ((a, b) :: m) c = m.get c := by
  simp [Memory.get, h]

/-- A canonical memory's first address is the least at which it does not read as unlisted. -/
theorem Memory.head_le_of_get_ne {a c : Nat} {b : Byte} {m : Memory} (hm : Memory.wf ((a, b) :: m) = true)
    (h : Memory.get ((a, b) :: m) c ≠ Memory.unlisted) : a ≤ c := by
  by_contra hc
  exact h (Memory.get_of_above (by simpa [Memory.above] using hc) hm)

/-- Settles O49, by induction on both lists: memories that read alike begin at the same least address, with the byte read
there, and their rests read alike, at that address as unlisted. -/
theorem memoriesThatReadAlikeAreEqual : Obligations.MemoriesThatReadAlikeAreEqual := by
  intro m
  induction m with
  | nil =>
    rintro (_ | ⟨⟨a, b⟩, m'⟩) _ hw' h
    · rfl
    · exact absurd ((h a).trans (Memory.get_head a b m')).symm (Memory.wf_cons_iff.1 hw').1
  | cons c m ih =>
    obtain ⟨a, b⟩ := c
    rintro (_ | ⟨⟨a', b'⟩, m'⟩) hw hw' h
    · exact absurd ((Memory.get_head a b m).symm.trans (h a)) (Memory.wf_cons_iff.1 hw).1
    · obtain ⟨hb, habove, hm⟩ := Memory.wf_cons_iff.1 hw
      obtain ⟨hb', habove', hm'⟩ := Memory.wf_cons_iff.1 hw'
      have ha : a = a' := le_antisymm
        (Memory.head_le_of_get_ne hw (by rwa [h, Memory.get_head]))
        (Memory.head_le_of_get_ne hw' (by rwa [← h, Memory.get_head]))
      subst ha
      have hbb : b = b' := by simpa using h a
      have hrest : m = m' := ih m' hm hm' fun x => by
        by_cases hx : x = a
        · rw [hx, Memory.get_of_above habove hm, Memory.get_of_above habove' hm']
        · simpa only [Memory.get_tail _ _ hx] using h x
      rw [hbb, hrest]

/-! Construction. -/

/-- At construction both units hold `BTDMP_AUX_RESET`, under `Periodic` the unit value. -/
theorem construct_auxUnit (c : Params) : (State.construct c).auxUnit = true := by
  rw [auxUnit_iff]
  intro (hp : c.btdmpPolicy = .periodic) k
  cases k <;> exact btdmpAuxReset_periodic hp

/-- Settles O20, field by field of the construction state. -/
theorem constructionMeetsTheInvariants : Obligations.ConstructionMeetsTheInvariants := by
  intro c
  refine ⟨State.construct c, rfl, fun hc => ?reset, ?memWf, ?timersWf, ?quiet, ?wired, ?faultRecorded, ?stepsCounted,
    construct_auxUnit c, shmemSize_pos c, fun _ => ?triggersAnswered⟩
  case reset => rw [hc]; rfl
  case quiet => exact (quiet_iff _).2 ⟨⟨rfl, rfl⟩, rfl⟩
  case wired => exact (wired_iff _).2 ⟨⟨fun k => by cases k <;> rfl, rfl⟩, fun k => by cases k <;> rfl, rfl⟩
  all_goals rfl

/-- Settles O59: the construction state has every value that a `RESET` writes, and its handlers are those that a `RESET`
keeps. -/
theorem constructionIsTheResetState : Obligations.ConstructionIsTheResetState := by
  intro c
  refine ⟨State.construct c, Config.procReset 0 Config.procInit, rfl, ?reset, rfl, rfl, rfl, rfl, fun k => ?handlers, rfl,
    rfl, ?empty⟩
  case reset => rw [exec_eq_body rfl]; rfl
  case handlers => cases k <;> exact ⟨rfl, rfl⟩
  case empty => rw [exec_eq_body rfl]; rfl

end Sys2Proof.Machine
end

section
/-! PROOFS. The family of 10_state, the Processor's opaque state (R25): a piece of a transaction that is blind to it ends,
from two states that differ in it alone, in the same way and in two states that differ in it alone. -/

namespace Sys2Proof.Machine

variable {α β : Type}

/-- The second end is the first, but for the Processor's state. -/
def Eff.UpToProc (e e' : Eff α) : Prop :=
  match e with
  | .done a t => ∃ q, e' = .done a (t.setProc q)
  | .raised t => ∃ q, e' = .raised (t.setProc q)
  | .stopped f => e' = .stopped f

/-- The piece does not depend on the Processor's state. -/
def ProcBlind (f : State → Eff α) : Prop := ∀ s p, (f s).UpToProc (f (s.setProc p))

/-! How blind pieces are put together. -/

theorem Eff.UpToProc.done (a : α) (t : State) (q : ProcState) : (Eff.done a t).UpToProc (.done a (t.setProc q)) := ⟨q, rfl⟩

theorem Eff.UpToProc.raised (t : State) (q : ProcState) : (Eff.raised t : Eff α).UpToProc (.raised (t.setProc q)) := ⟨q, rfl⟩

theorem Eff.UpToProc.ite {c : Prop} [Decidable c] {e e' g g' : Eff α} (he : e.UpToProc e') (hg : g.UpToProc g') :
    (if c then e else g).UpToProc (if c then e' else g') := by
  split
  · exact he
  · exact hg

theorem ProcBlind.bind {f : State → Eff α} {k : α → State → Eff β} (hf : ProcBlind f) (hk : ∀ a, ProcBlind (k a)) :
    ProcBlind fun s => (f s).bind k := by
  intro s p
  have h := hf s p
  dsimp only
  cases he : f s with
  | done a t => rw [he] at h; obtain ⟨q, hq⟩ := h; rw [hq]; exact hk a t q
  | raised t => rw [he] at h; obtain ⟨q, hq⟩ := h; rw [hq]; exact .raised t q
  | stopped e => rw [he] at h; exact congrArg (Eff.bind · k) h

theorem withSlot_procBlind (i : BitVec 2) {body : Slot → State → Eff α} (h : ∀ k, ProcBlind (body k)) :
    ProcBlind (withSlot i body) := by
  intro s p
  unfold withSlot
  cases slotOf i with
  | none => exact .raised _ p
  | some k => exact h k s p

/-! The shared operations. -/

theorem giveResult_procBlind (who : Agent) (x : Nat) : ProcBlind (giveResult who x) := fun _ p => .done _ _ p

theorem memRead_procBlind (a : Nat) : ProcBlind (memRead a) := fun _ p => .ite (.done _ _ p) (.raised _ p)

theorem memWrite_procBlind (a : Nat) (b : Byte) : ProcBlind (memWrite a b) := fun _ p => .ite (.done _ _ p) (.raised _ p)

theorem portRead_procBlind (who : Agent) (a : Word) : ProcBlind (portRead who a) :=
  (memRead_procBlind _).bind fun _ => giveResult_procBlind _ _

/-- A delivery replaces the Processor's state by one that depends on it, and does nothing else that does (R53). -/
theorem trigger_procBlind (v : Vec) : ProcBlind (trigger v) := by
  intro s p
  cases h : vecGet s.icu.active v with
  | true => rw [trigger_reentrant h, trigger_reentrant (s := s.setProc p) h]; exact .raised _ p
  | false =>
    rw [trigger_eq h, trigger_eq (s := s.setProc p) h]
    exact .done _ _ (signalled p v (vecGet s.icu.route v))

theorem callHandler_procBlind (h : Handler) (src : Source) : ProcBlind (callHandler h src) := by
  cases h with
  | none => exact fun _ p => .done _ _ p
  | icu v => exact trigger_procBlind v
  | host t => exact fun _ p => .done _ _ p

/-! The channels. -/

theorem apbpSend_procBlind (c : Chan) (i : BitVec 2) (x : Half) : ProcBlind (apbpSend c i x) :=
  withSlot_procBlind i fun k s p => by
    cases c <;> exact callHandler_procBlind _ (.data k) (State.setApbp s _ _) p

theorem apbpIsReady_procBlind (c : Chan) (i : BitVec 2) : ProcBlind (apbpIsReady c i) :=
  withSlot_procBlind i fun _ _ p => by cases c <;> exact .done _ _ p

theorem apbpRecv_procBlind (c : Chan) (i : BitVec 2) : ProcBlind (apbpRecv c i) :=
  withSlot_procBlind i fun _ _ p => by cases c <;> exact .done _ _ p

theorem apbpSetSem_procBlind (c : Chan) (x : Half) : ProcBlind (apbpSetSem c x) := fun s p => by
  cases c <;> exact callHandler_procBlind _ .sem (State.setApbp s _ _) p

theorem apbpGetSem_procBlind (c : Chan) : ProcBlind (apbpGetSem c) := fun _ p => by cases c <;> exact .done _ _ p

/-! The units and the routes. -/

theorem timerCfg_procBlind (k : UnitId) (en : Bool) (x : Word) : ProcBlind (timerCfg k en x) := fun _ p =>
  .ite (.ite (.raised _ p) (.done _ _ p)) (.ite (.done _ _ p) (.raised _ p))

theorem setCounter_procBlind (k : UnitId) (c : State → Word) (hc : ∀ s p, c (s.setProc p) = c s) :
    ProcBlind fun s => .done () (setCounter k (c s) s) := fun s p => by
  dsimp only
  rw [hc]; exact .done _ _ p

/-- Whether a timer fires is read from the timer alone, and its handler is called before the counter reloads (R63). -/
theorem timerTick_procBlind (k : UnitId) : ProcBlind (timerTick k) := fun s p =>
  .ite
    (.ite (((callHandler_procBlind _ (.timer k)).bind fun _ => setCounter_procBlind k _ fun _ _ => rfl)
      (setCounter k _ s) p) (.done _ _ p))
    (.done _ _ p)

theorem btdmpCfg_procBlind (k : UnitId) (en : Bool) (q : Word) : ProcBlind (btdmpCfg k en q) := fun _ p =>
  .ite (.ite (.raised _ p) (.done _ _ p)) (.ite (.done _ _ p) (.raised _ p))

theorem btdmpTick_procBlind (k : UnitId) : ProcBlind (btdmpTick k) := fun s p =>
  .ite (callHandler_procBlind _ (.btdmp k) (s.setBtdmp k _) p) (.done _ _ p)

theorem icuSetRoute_procBlind (v : Vec) (r : BitVec 2) : ProcBlind (icuSetRoute v r) := by
  intro s p
  unfold icuSetRoute
  cases routeOf r with
  | none => exact .raised _ p
  | some d => exact .done _ _ p

/-! The transfers. -/

theorem drawByte_setProc (s : State) (p : ProcState) :
    drawByte (s.setProc p) = ((drawByte s).1, (drawByte s).2.setProc p) := by
  cases h : s.io.answers <;> simp [drawByte, h] <;> rfl

theorem extRead8_procBlind (a : Word) : ProcBlind (extRead8 a) := by
  intro s p
  cases h : s.ahbm.cb with
  | none => simp only [extRead8, setProc_ahbm, h]; exact .done _ _ p
  | some t => simp only [extRead8, setProc_ahbm, h, drawByte_setProc]; exact .done _ _ p

theorem extWrite8_procBlind (a : Word) (b : Byte) : ProcBlind (extWrite8 a b) := by
  intro s p
  cases h : s.ahbm.cb with
  | none => simp only [extWrite8, setProc_ahbm, h]; exact .done _ _ p
  | some t => simp only [extWrite8, setProc_ahbm, h]; exact .done _ _ p

theorem dmaByte_procBlind (dir : Dir) (a e : Word) (i : Nat) : ProcBlind (dmaByte dir a e i) := by
  cases dir with
  | toExt => exact (memRead_procBlind _).bind fun _ => extWrite8_procBlind _ _
  | fromExt => exact (extRead8_procBlind _).bind fun _ => memWrite_procBlind _ _

theorem dmaBytes_procBlind (dir : Dir) (a e : Word) (n : Nat) : ∀ i, ProcBlind (dmaBytes dir a e n i) := by
  induction n with
  | zero => exact fun _ _ p => .done _ _ p
  | succ n ih => exact fun i => (dmaByte_procBlind dir a e i).bind fun _ => ih (i + 1)

theorem dmaStart_procBlind (dir : Dir) (a e len : Word) : ProcBlind (dmaStart dir a e len) := fun s p =>
  .ite (.raised _ p) (.ite (.raised _ p)
    (((dmaBytes_procBlind dir a e _ 0).bind fun _ => callHandler_procBlind _ .dma) (s.setDma _) p))

/-! The operations. -/

/-- The body of an operation that does not run the Processor is blind to its state. -/
theorem execBody_procBlind {i : Instr} (hi : ¬ RunsProc i) : ProcBlind (execBody i) := by
  cases i with
  | procStep => exact absurd (.inl rfl) hi
  | run n => exact absurd (.inr ⟨n, rfl⟩) hi
  | reset => exact fun s p => .done _ _ (Config.procReset s.io.draws p)
  | hostMemRead a => exact portRead_procBlind _ _
  | hostMemWrite b a => exact memWrite_procBlind _ _
  | sendDataIsEmpty i => exact (apbpIsReady_procBlind _ i).bind fun _ => giveResult_procBlind _ _
  | sendData i x => exact apbpSend_procBlind _ i x
  | recvDataIsReady i => exact (apbpIsReady_procBlind _ i).bind fun _ => giveResult_procBlind _ _
  | recvData i => exact (apbpRecv_procBlind _ i).bind fun _ => giveResult_procBlind _ _
  | setRecvDataHandler i t => exact withSlot_procBlind i fun _ _ p => .done _ _ p
  | setSemaphore x => exact apbpSetSem_procBlind _ x
  | getSemaphore => exact (apbpGetSem_procBlind _).bind fun _ => giveResult_procBlind _ _
  | setSemaphoreHandler t => exact fun _ p => .done _ _ p
  | setAhbmCallback t => exact fun _ p => .done _ _ p
  | dspSendData i x => exact apbpSend_procBlind _ i x
  | dspRecvData i => exact (apbpRecv_procBlind _ i).bind fun _ => giveResult_procBlind _ _
  | dspIsDataReady i => exact (apbpIsReady_procBlind _ i).bind fun _ => giveResult_procBlind _ _
  | dspOutIsReady i => exact (apbpIsReady_procBlind _ i).bind fun _ => giveResult_procBlind _ _
  | dspSetSemaphore x => exact apbpSetSem_procBlind _ x
  | dspGetSemaphore => exact (apbpGetSem_procBlind _).bind fun _ => giveResult_procBlind _ _
  | dmaStart dir a e len => exact dmaStart_procBlind dir a e len
  | timerCfg k en x => exact timerCfg_procBlind k en x
  | btdmpCfg k en q => exact btdmpCfg_procBlind k en q
  | icuSetRoute v r => exact icuSetRoute_procBlind v r
  | dspMemRead a => exact portRead_procBlind _ _
  | dspMemWrite b a => exact memWrite_procBlind _ _
  | triggerSingle v => exact trigger_procBlind v
  | timerTick k => exact timerTick_procBlind k
  | btdmpTick k => exact btdmpTick_procBlind k
  | extRead8 a => exact (extRead8_procBlind a).bind fun _ _ p => .done _ _ p
  | extWrite8 b a => exact extWrite8_procBlind a b

theorem Eff.UpToProc.outcome {e e' : Eff Unit} {t : State} (h : e.UpToProc e') (he : e.outcome = .next t) :
    ∃ q, e'.outcome = .next (t.setProc q) := by
  cases e with
  | done a u => obtain ⟨q, rfl⟩ := h; cases he; exact ⟨q, rfl⟩
  | raised u => obtain ⟨q, rfl⟩ := h; cases he; exact ⟨q, rfl⟩
  | stopped f => cases he

/-- Settles O24: on a faulted block no operation has an effect, and on any other an operation is its body. -/
theorem processorStateIsNeverInspected : Obligations.ProcessorStateIsNeverInspected := by
  intro i s t p hstep hrun h
  change ∃ q, exec i (s.setProc p) = .next (t.setProc q)
  have hi : ¬ RunsProc i := fun hr => hr.elim hstep fun ⟨n, hn⟩ => hrun n hn
  cases hf : s.fault with
  | some c =>
    rw [exec_eq_transact, transact_faulted hf] at h
    cases h
    exact ⟨p, by rw [exec_eq_transact, transact_faulted (s := s.setProc p) hf]⟩
  | none =>
    rw [exec_eq_body hf] at h
    rw [exec_eq_body (s := s.setProc p) hf]
    exact (execBody_procBlind hi s p).outcome h

end Sys2Proof.Machine
end

section
/-! PROOFS. The family of 30_encoding, the round trip between operations and words (R44 to R49). -/

namespace Sys2Proof

/-! An operand as what a header field holds: the field is the operand's bits exactly when the operand is what it names. -/

theorem eq_unitBit_iff {b : BitVec 1} {k : UnitId} : b = k.bit ↔ unitOf b = k :=
  ⟨fun hb => hb ▸ unitOf_bit k, fun hk => hk ▸ (bit_unitOf b).symm⟩

theorem eq_dirBit_iff {b : BitVec 1} {d : Dir} : b = d.bit ↔ dirOf b = d :=
  ⟨fun hb => hb ▸ dirOf_bit d, fun hd => hd ▸ (bit_dirOf b).symm⟩

theorem eq_enableBit_iff {b : BitVec 1} {en : Bool} : b = enableBit en ↔ enableOf b = en :=
  ⟨fun hb => hb ▸ enableOf_bit en, fun he => he ▸ (bit_enableOf b).symm⟩

theorem eq_byte_iff {x : Half} {b : Byte} : x = b.setWidth 16 ↔ x.extractLsb' 8 8 = 0#8 ∧ x.extractLsb' 0 8 = b :=
  ⟨fun hx => hx ▸ ⟨byteHigh_of_byte b, byteLow_of_byte b⟩, fun ⟨hhigh, hlow⟩ => hlow ▸ (byte_of_byteHigh hhigh).symm⟩

theorem eq_route_iff {x : Half} {r : BitVec 2} :
    x = r.setWidth 16 ↔ x.extractLsb' 2 14 = 0#14 ∧ x.extractLsb' 0 2 = r :=
  ⟨fun hx => hx ▸ ⟨routeHigh_of_route r, routeLow_of_route r⟩,
    fun ⟨hhigh, hlow⟩ => hlow ▸ (route_of_routeHigh hhigh).symm⟩

/-! The operand forms: a header of each form is accepted exactly when it has the form's fields and zeros elsewhere. -/

variable {h : Header} {x1 x2 x3 : Word} {j : Instr}

theorem checked_eq_ok {ok : Bool} {err : DecodeError} {i : Instr} : checked ok err i = .ok j ↔ ok = true ∧ i = j := by
  cases ok <;> simp [checked]

theorem guarded_eq_ok {c : Prop} [Decidable c] {e : Except DecodeError Instr} {err : DecodeError} :
    (if c then e else .error err) = .ok j ↔ c ∧ e = .ok j := by
  split <;> simp [*]

theorem decodePlain_eq_ok {i : Instr} : decodePlain h i = .ok j ↔ h = ⟨h.op, 0, 0, 0, 0, 0⟩ ∧ i = j := by
  rcases h
  simp [decodePlain, checked_eq_ok, and_assoc]

theorem decodeSlot_eq_ok {f : BitVec 2 → Instr} :
    decodeSlot h f = .ok j ↔ ∃ i, h = ⟨h.op, i, 0, 0, 0, 0⟩ ∧ f i = j := by
  rcases h
  simp [decodeSlot, checked_eq_ok, and_assoc]

theorem decodeSlotHalf_eq_ok {f : BitVec 2 → Half → Instr} :
    decodeSlotHalf h f = .ok j ↔ ∃ i x, h = ⟨h.op, i, 0, 0, 0, x⟩ ∧ f i x = j := by
  rcases h
  simp [decodeSlotHalf, checked_eq_ok, and_assoc]

theorem decodeHalf_eq_ok {f : Half → Instr} :
    decodeHalf h f = .ok j ↔ ∃ x, h = ⟨h.op, 0, 0, 0, 0, x⟩ ∧ f x = j := by
  rcases h
  simp [decodeHalf, checked_eq_ok, and_assoc]

theorem decodeByte_eq_ok {f : Byte → Instr} :
    decodeByte h f = .ok j ↔ ∃ b : Byte, h = ⟨h.op, 0, 0, 0, 0, b.setWidth 16⟩ ∧ f b = j := by
  rcases h
  simp [decodeByte, guarded_eq_ok, checked_eq_ok, eq_byte_iff, and_assoc]

theorem decodeUnit_eq_ok {f : UnitId → Instr} :
    decodeUnit h f = .ok j ↔ ∃ k, h = ⟨h.op, 0, UnitId.bit k, 0, 0, 0⟩ ∧ f k = j := by
  rcases h
  simp [decodeUnit, checked_eq_ok, eq_unitBit_iff, and_assoc]

theorem decodeCfg_eq_ok {f : UnitId → Bool → Word → Instr} :
    decodeCfg h x1 f = .ok j ↔
      ∃ k en, h = ⟨h.op, 0, UnitId.bit k, enableBit en, 0, 0⟩ ∧ (en || x1 == 0) = true ∧ f k en x1 = j := by
  rcases h
  simp [decodeCfg, guarded_eq_ok, checked_eq_ok, eq_unitBit_iff, eq_enableBit_iff, and_assoc]

theorem decodeDir_eq_ok {f : Dir → Instr} :
    decodeDir h f = .ok j ↔ ∃ d, h = ⟨h.op, 0, 0, Dir.bit d, 0, 0⟩ ∧ f d = j := by
  rcases h
  simp [decodeDir, checked_eq_ok, eq_dirBit_iff, and_assoc]

theorem decodeVec_eq_ok {f : Vec → Instr} :
    decodeVec h f = .ok j ↔ ∃ v, h = ⟨h.op, 0, 0, 0, v, 0⟩ ∧ f v = j := by
  rcases h
  simp [decodeVec, checked_eq_ok, and_assoc]

theorem decodeRoute_eq_ok {f : Vec → BitVec 2 → Instr} :
    decodeRoute h f = .ok j ↔
      ∃ (v : Vec) (r : BitVec 2), h = ⟨h.op, 0, 0, 0, v, r.setWidth 16⟩ ∧ (r != 0b11) = true ∧ f v r = j := by
  rcases h
  simp [decodeRoute, guarded_eq_ok, checked_eq_ok, eq_route_iff, and_assoc]

/-! The operation map. -/

/-- The words of a well-formed operation, whatever stands in the lanes it does not use, decode to it (R45 to R48). -/
theorem decodeHeader_header (hwf : j.wellFormed = true) (hx : j.ext <+: [x1, x2, x3]) :
    decodeHeader j.header x1 x2 x3 = .ok j := by
  cases j
  case reset | getSemaphore | dspGetSemaphore | procStep => exact decodePlain_eq_ok.2 ⟨rfl, rfl⟩
  case run | hostMemRead | dspMemRead | extRead8 =>
    obtain ⟨rfl, -⟩ := List.cons_prefix_cons.1 hx
    exact decodePlain_eq_ok.2 ⟨rfl, rfl⟩
  case hostMemWrite | dspMemWrite | extWrite8 =>
    obtain ⟨rfl, -⟩ := List.cons_prefix_cons.1 hx
    simp [decodeHeader, Instr.header, decodeByte_eq_ok]
  case sendDataIsEmpty | recvDataIsReady | recvData | dspRecvData | dspIsDataReady | dspOutIsReady =>
    exact decodeSlot_eq_ok.2 ⟨_, rfl, rfl⟩
  case sendData | setRecvDataHandler | dspSendData => exact decodeSlotHalf_eq_ok.2 ⟨_, _, rfl, rfl⟩
  case setSemaphore | setSemaphoreHandler | setAhbmCallback | dspSetSemaphore =>
    exact decodeHalf_eq_ok.2 ⟨_, rfl, rfl⟩
  case dmaStart =>
    obtain ⟨rfl, rfl, rfl, -⟩ : _ ∧ _ ∧ _ ∧ _ := by simpa only [List.cons_prefix_cons, Instr.ext] using hx
    simp [decodeHeader, Instr.header, decodeDir_eq_ok]
  case timerCfg | btdmpCfg =>
    obtain ⟨rfl, -⟩ := List.cons_prefix_cons.1 hx
    exact decodeCfg_eq_ok.2 ⟨_, _, rfl, hwf, rfl⟩
  case icuSetRoute => exact decodeRoute_eq_ok.2 ⟨_, _, rfl, hwf, rfl⟩
  case triggerSingle => exact decodeVec_eq_ok.2 ⟨_, rfl, rfl⟩
  case timerTick | btdmpTick => exact decodeUnit_eq_ok.2 ⟨_, rfl, rfl⟩

/-- A header with the fields of an operation's header and its `OP` is that header. -/
theorem header_eq_of_op (hh : h = { j.header with op := h.op }) (ho : h.op.toNat = j.header.op.toNat) :
    j.header = h := by
  rw [hh, BitVec.eq_of_toNat_eq ho]

/-- A header that decodes is the header of a well-formed operation, whose extension words are the first lanes
(R45 to R49). -/
theorem header_of_decodeHeader (hd : decodeHeader h x1 x2 x3 = .ok j) :
    j.wellFormed = true ∧ j.header = h ∧ j.ext <+: [x1, x2, x3] := by
  unfold decodeHeader at hd
  split at hd
  case h_1 ho | h_11 ho | h_19 ho | h_27 ho =>
    obtain ⟨hh, rfl⟩ := decodePlain_eq_ok.1 hd
    exact ⟨rfl, header_eq_of_op hh ho, List.nil_prefix⟩
  case h_2 ho | h_3 ho | h_24 ho | h_30 ho =>
    obtain ⟨hh, rfl⟩ := decodePlain_eq_ok.1 hd
    exact ⟨rfl, header_eq_of_op hh ho, List.prefix_append [x1] _⟩
  case h_4 ho | h_25 ho | h_31 ho =>
    obtain ⟨b, hh, rfl⟩ := decodeByte_eq_ok.1 hd
    exact ⟨rfl, header_eq_of_op hh ho, List.prefix_append [x1] _⟩
  case h_5 ho | h_7 ho | h_8 ho | h_15 ho | h_16 ho | h_17 ho =>
    obtain ⟨i, hh, rfl⟩ := decodeSlot_eq_ok.1 hd
    exact ⟨rfl, header_eq_of_op hh ho, List.nil_prefix⟩
  case h_6 ho | h_9 ho | h_14 ho =>
    obtain ⟨i, x, hh, rfl⟩ := decodeSlotHalf_eq_ok.1 hd
    exact ⟨rfl, header_eq_of_op hh ho, List.nil_prefix⟩
  case h_10 ho | h_12 ho | h_13 ho | h_18 ho =>
    obtain ⟨x, hh, rfl⟩ := decodeHalf_eq_ok.1 hd
    exact ⟨rfl, header_eq_of_op hh ho, List.nil_prefix⟩
  case h_20 ho =>
    obtain ⟨d, hh, rfl⟩ := decodeDir_eq_ok.1 hd
    exact ⟨rfl, header_eq_of_op hh ho, List.prefix_rfl⟩
  case h_21 ho | h_22 ho =>
    obtain ⟨k, en, hh, hp, rfl⟩ := decodeCfg_eq_ok.1 hd
    exact ⟨hp, header_eq_of_op hh ho, List.prefix_append [x1] _⟩
  case h_23 ho =>
    obtain ⟨v, r, hh, hr, rfl⟩ := decodeRoute_eq_ok.1 hd
    exact ⟨hr, header_eq_of_op hh ho, List.nil_prefix⟩
  case h_26 ho =>
    obtain ⟨v, hh, rfl⟩ := decodeVec_eq_ok.1 hd
    exact ⟨rfl, header_eq_of_op hh ho, List.nil_prefix⟩
  case h_28 ho | h_29 ho =>
    obtain ⟨k, hh, rfl⟩ := decodeUnit_eq_ok.1 hd
    exact ⟨rfl, header_eq_of_op hh ho, List.nil_prefix⟩
  case h_32 => cases hd

/-! The words of an operation, at a port and in a flat stream. -/

/-- The length that R46 finds from `OP` alone is the number of the operation's extension words: the law of each
constructor. -/
theorem extCount_header : (i : Instr) → extCount i.header.toWord = i.ext.length
  | .reset => Laws.ExtLength.reset
  | .run n => Laws.ExtLength.run n
  | .hostMemRead a => Laws.ExtLength.hostMemRead a
  | .hostMemWrite b a => Laws.ExtLength.hostMemWrite b a
  | .sendDataIsEmpty i => Laws.ExtLength.sendDataIsEmpty i
  | .sendData i x => Laws.ExtLength.sendData i x
  | .recvDataIsReady i => Laws.ExtLength.recvDataIsReady i
  | .recvData i => Laws.ExtLength.recvData i
  | .setRecvDataHandler i t => Laws.ExtLength.setRecvDataHandler i t
  | .setSemaphore x => Laws.ExtLength.setSemaphore x
  | .getSemaphore => Laws.ExtLength.getSemaphore
  | .setSemaphoreHandler t => Laws.ExtLength.setSemaphoreHandler t
  | .setAhbmCallback t => Laws.ExtLength.setAhbmCallback t
  | .dspSendData i x => Laws.ExtLength.dspSendData i x
  | .dspRecvData i => Laws.ExtLength.dspRecvData i
  | .dspIsDataReady i => Laws.ExtLength.dspIsDataReady i
  | .dspOutIsReady i => Laws.ExtLength.dspOutIsReady i
  | .dspSetSemaphore x => Laws.ExtLength.dspSetSemaphore x
  | .dspGetSemaphore => Laws.ExtLength.dspGetSemaphore
  | .dmaStart dir a e len => Laws.ExtLength.dmaStart dir a e len
  | .timerCfg k en p => Laws.ExtLength.timerCfg k en p
  | .btdmpCfg k en q => Laws.ExtLength.btdmpCfg k en q
  | .icuSetRoute v r => Laws.ExtLength.icuSetRoute v r
  | .dspMemRead a => Laws.ExtLength.dspMemRead a
  | .dspMemWrite b a => Laws.ExtLength.dspMemWrite b a
  | .triggerSingle v => Laws.ExtLength.triggerSingle v
  | .procStep => Laws.ExtLength.procStep
  | .timerTick k => Laws.ExtLength.timerTick k
  | .btdmpTick k => Laws.ExtLength.btdmpTick k
  | .extRead8 a => Laws.ExtLength.extRead8 a
  | .extWrite8 b a => Laws.ExtLength.extWrite8 b a

/-- An operation has no extension words, one or three (R46). -/
theorem ext_cases (i : Instr) : i.ext = [] ∨ (∃ x, i.ext = [x]) ∨ ∃ x y z, i.ext = [x, y, z] := by
  cases i
  case run | hostMemRead | hostMemWrite | dspMemRead | dspMemWrite | extRead8 | extWrite8 | timerCfg | btdmpCfg =>
    exact .inr (.inl ⟨_, rfl⟩)
  case dmaStart => exact .inr (.inr ⟨_, _, _, rfl⟩)
  all_goals exact .inl rfl

/-- The extension words of an operation are the lanes of its call that it uses. -/
theorem ext_prefix_lanes (i : Instr) : i.ext <+: [i.ext.getD 0 0, i.ext.getD 1 0, i.ext.getD 2 0] := by
  obtain hx | ⟨x, hx⟩ | ⟨x, y, z, hx⟩ := ext_cases i
  · rw [hx]; exact List.nil_prefix
  · rw [hx]; exact List.prefix_append [x] _
  · rw [hx]; exact List.prefix_rfl

/-- Settles O1: the header's fields are read back from its word, and the lanes begin with the extension words. -/
theorem decodeOfEncodeIsTheInstruction : Obligations.DecodeOfEncodeIsTheInstruction := by
  intro i hwf
  unfold decode encodeCall
  rw [Header.ofWord_toWord]
  exact decodeHeader_header hwf (ext_prefix_lanes i)

/-- Settles O2: the fields of a header cover its word, and `OP` says how many lanes are used. -/
theorem legalWordIsTheEncodingOfItsInstruction : Obligations.LegalWordIsTheEncodingOfItsInstruction := by
  intro t i hd
  obtain ⟨hwf, hh, hx⟩ := header_of_decodeHeader hd
  have hw : i.header.toWord = t.w := by rw [hh, Header.toWord_ofWord]
  refine ⟨hwf, hw, ?_⟩
  rw [← hw, extCount_header]
  exact List.prefix_iff_eq_take.1 hx

/-- Settles O3, by the number of extension words, which `cut` finds from `OP`. -/
theorem streamIsCutAfterItsFirstTransaction : Obligations.StreamIsCutAfterItsFirstTransaction := by
  intro i rest
  have hn := extCount_header i
  obtain hx | ⟨x, hx⟩ | ⟨x, y, z, hx⟩ := ext_cases i
  all_goals
    rw [hx] at hn
    simp [encode, encodeCall, cut, hn, hx]

end Sys2Proof
end

section
/-! PROOFS. The family of 30_encoding, the faults of words: an illegal word (R49), a word of another agent (R50), the slot
index 3 (R47), and the words of the spec's test vectors. -/

namespace Sys2Proof

/-- An operation for each `OP` of R48. -/
def Instr.samples : List Instr :=
  [.reset, .run 0, .hostMemRead 0, .hostMemWrite 0 0, .sendDataIsEmpty 0, .sendData 0 0, .recvDataIsReady 0, .recvData 0,
    .setRecvDataHandler 0 0, .setSemaphore 0, .getSemaphore, .setSemaphoreHandler 0, .setAhbmCallback 0, .dspSendData 0 0,
    .dspRecvData 0, .dspIsDataReady 0, .dspOutIsReady 0, .dspSetSemaphore 0, .dspGetSemaphore, .dmaStart .toExt 0 0 0,
    .timerCfg .u0 false 0, .btdmpCfg .u0 false 0, .icuSetRoute 0 0, .dspMemRead 0, .dspMemWrite 0 0, .triggerSingle 0,
    .procStep, .timerTick .u0, .btdmpTick .u0, .extRead8 0, .extWrite8 0 0]

/-- Every `OP` from `0x01` to `0x0D`, from `0x20` to `0x2B` and from `0x40` to `0x45` is an operation's (R48). -/
theorem exists_op_of_range : ∀ op : BitVec 8, (1 ≤ op.toNat ∧ op.toNat ≤ 0x0D) ∨ (0x20 ≤ op.toNat ∧ op.toNat ≤ 0x2B) ∨
    (0x40 ≤ op.toNat ∧ op.toNat ≤ 0x45) → ∃ i ∈ Instr.samples, i.header.op = op := by
  decide

/-- An `OP` that no operation has is refused as undefined, whatever the other fields (R49). -/
theorem decodeHeader_undefinedOp {h : Header} (hno : ∀ i : Instr, i.header.op ≠ h.op) (x1 x2 x3 : Word) :
    decodeHeader h x1 x2 x3 = .error .undefinedOp := by
  have hrange := mt (exists_op_of_range h.op) fun ⟨i, _, hi⟩ => hno i hi
  unfold decodeHeader
  split
  case h_32 => rfl
  all_goals omega

/-- An `OP` that no operation has is one word long (R46). -/
theorem extCount_undefinedOp {w : Word} (hno : ∀ i : Instr, i.header.op ≠ (Header.ofWord w).op) : extCount w = 0 := by
  have hrange := mt (exists_op_of_range (Header.ofWord w).op) fun ⟨i, _, hi⟩ => hno i hi
  unfold extCount
  split
  case h_11 => rfl
  all_goals omega

/-- Settles O4, word by word: the decoder evaluates. -/
theorem testVectorWordsDecode : Obligations.TestVectorWordsDecode := by
  unfold Obligations.TestVectorWordsDecode
  decide

end Sys2Proof

namespace Sys2Proof.Machine

variable {s : State} {w : Words}

/-! A call that is settled by a fault. -/

/-- An illegal word is settled by `Fault(Encoding)`, before the agent is looked at (R49, R112). -/
theorem admitCall_illegal (hf : s.fault = none) {e : DecodeError} (hd : decode w = .error e) :
    admitCall w s = .settled (s.withFault .encoding) := by
  simp only [admitCall, hf, hd, raise_eq_withFault hf]

/-- A legal word that is not the host's is settled by `Fault(Agent)` (R50). -/
theorem admitCall_wrongAgent (hf : s.fault = none) {i : Instr} (hd : decode w = .ok i) (ha : i.agent ≠ .host) :
    admitCall w s = .settled (s.withFault .agent) := by
  simp only [admitCall, hf, hd, if_neg ha, raise_eq_withFault hf]

/-- A step whose call is settled ends in the state that settles it. -/
theorem step_of_settled {rest : List Words} {t : State} (hc : s.io.calls = w :: rest)
    (ha : admitCall w { s with io := { s.io with calls := rest } } = .settled t) : step s = .next t := by
  have hn : nextCall s = .settled t := by simp only [nextCall, hc]; exact ha
  rw [step, hn]

/-- Settles O6: the decoder refuses the word before anything is executed, and an undefined `OP` is none of R48's. -/
theorem illegalWordFaultsEncoding : Obligations.IllegalWordFaultsEncoding := by
  refine ⟨fun s w rest e hc hf hd => ?_, fun t hno => ⟨?_, ?_⟩⟩
  · exact step_of_settled hc (admitCall_illegal hf hd)
  · exact decodeHeader_undefinedOp hno t.x1 t.x2 t.x3
  · exact extCount_undefinedOp hno

/-! A Processor step whose first action raises a fault. -/

/-- The state in which a Processor step's first action `a` is executed, when it is drawn with the Processor's state `p` and
leaves the moves `rest` (R100). -/
def State.actionBegun (s : State) (p : ProcState) (rest : List (Option ProcMove)) : State :=
  { s with
    steps := s.steps + 1
    hist := s.hist ++ [.stepBegin (s.steps + 1)]
    proc := p
    io := { s.io with script := rest } }

/-- The fault of an action ends the step (R100, R111). -/
theorem exec_procStep_of_raised {p : ProcState} {rest : List (Option ProcMove)} {t : State} (hf : s.fault = none)
    (hs : s.io.script = some (.act p w) :: rest) (ha : actionWords w (s.actionBegun p rest) = .raised t) :
    exec .procStep s = .next t := by
  rw [exec_eq_body hf, execBody, procStep_script hs, procMoves_script (s := s.stepBegun) hs]
  change ((actionWords w (s.actionBegun p rest)).bind _).outcome = .next t
  rw [ha, Eff.bind_raised, Eff.outcome_raised]

/-- Settles O7: the agent check comes after the decoding, for the host's calls when a call is admitted and for the Processor's
actions when one is executed. -/
theorem wrongAgentFaultsAgent : Obligations.WrongAgentFaultsAgent := by
  refine ⟨fun s w rest i hc hf hd ha => ?_, fun s p a i rest hf hs hd ha => ?_⟩
  · exact step_of_settled hc (admitCall_wrongAgent hf hd ha)
  · refine exec_procStep_of_raised (t := (s.actionBegun p rest).withFault .agent) hf hs ?_
    rw [← raise_eq_withFault (s := s.actionBegun p rest) hf, ← action_of_other_agent ha]
    simp only [actionWords, hd]

/-! The slot index 3. -/

/-- Settles O45: an index is well formed whatever its value, and every body that takes one asks for its slot first. -/
theorem slotIndexThreeFaults : Obligations.SlotIndexThreeFaults := by
  intro s x hf i hi
  have hbody : i.wellFormed = true ∧ execBody i s = .raised (s.raise .index) := by
    simp only [List.mem_cons, List.not_mem_nil, or_false] at hi
    obtain rfl | rfl | rfl | rfl | rfl | rfl | rfl | rfl | rfl := hi <;> exact ⟨rfl, rfl⟩
  obtain ⟨hwf, hraised⟩ := hbody
  exact ⟨decodeOfEncodeIsTheInstruction i hwf,
    by rw [exec_eq_body hf, hraised, Eff.outcome_raised, raise_eq_withFault hf]⟩

end Sys2Proof.Machine
end

section
/-! PROOFS. The family of 40_icu: who triggers a vector and what answers it (R54, R56), the route that `ICU_SET_ROUTE` writes
(R57), the call of a handler (R55), and how an operation's words reach the block (R46, R50), which every family shares. -/

namespace Sys2Proof.Machine

variable {op : Instr} {s t : State} {v : Vec}

/-! The words of an operation at the ports. -/

/-- A well-formed operation is issued as the words of its header and extension words, by its own agent (R45 to R50). -/
theorem issuedAs_of_wellFormed {i : Instr} (hwf : i.wellFormed = true) : IssuedAs i i.agent i.header i.ext := by
  have hd : decode (encodeCall i) = .ok i := decodeOfEncodeIsTheInstruction i hwf
  refine ⟨hd, extCount_header i, fun s hf => ?call, fun s hf => ?action⟩
  case call =>
    change admitCall (encodeCall i) s = _
    split
    next ha => simp only [admitCall, hf, hd, if_pos ha]
    next ha => exact admitCall_wrongAgent hf hd ha
  case action =>
    have haction : actionWords (encodeCall i) s = action i s := by simp only [actionWords, hd]
    change (actionWords (encodeCall i) s).outcome = _
    rw [haction]
    split
    next ha => rw [action_eq_body ha, exec_eq_body hf]
    next ha => rw [action_of_other_agent ha, Eff.outcome_raised, raise_eq_withFault hf]

/-! The ICU's events. -/

/-- The event is a trigger of a vector or an answer to one (R56). -/
def isIcuEvent : Event → Bool
  | .raise _ | .deliver _ _ | .suppressed _ => true
  | .hostCb _ _ | .extRd _ _ | .extWr _ _ | .result _ _ | .stepBegin _ | .resetDone | .faultEv _ => false

/-- What a move does to the ICU's events, said once: it appends none of them, or the two of one trigger, which is the
operation itself, or of a vector that a source is wired to, or of one that a handler names (R54, R56). -/
theorem Move.icuEvents (h : Move op s t) :
    ∃ es, t.hist = s.hist ++ es ∧ (es.any isIcuEvent = false ∨
      ∃ w r, es = [.raise w, answerEvent w r] ∧ (op = .triggerSingle w ∨ w ∈ wiredVecs ∨ s.handlerVec w)) := by
  cases h with
  | trigger w hw => exact ⟨_, rfl, .inr ⟨w, _, rfl, hw⟩⟩
  | timerExpire k => exact ⟨_, rfl, .inr ⟨timerVec k, _, rfl, .inr (.inl (timerVec_wired k))⟩⟩
  | hostCb | extRd | extWr | result | stepBegin | reset => exact ⟨_, rfl, .inl rfl⟩
  | apbp c p => exact ⟨[], by simp, .inl rfl⟩
  | _ => exact ⟨[], (List.append_nil _).symm, .inl rfl⟩

theorem not_mem_of_no_icuEvent {es : List Event} (h : es.any isIcuEvent = false) {e : Event} (he : isIcuEvent e = true) :
    e ∉ es := fun hm => by simp [List.any_eq_false.1 h e hm] at he

/-! Each trigger is answered. -/

/-- The events hold one delivery or suppression of `v` for each of its triggers (R56). -/
def Answered (v : Vec) (es : List Event) : Prop :=
  es.count (.raise v) =
    es.count (.deliver .direct v) + es.count (.deliver .vectored v) + es.count (.suppressed v)

theorem triggersAnswered_iff (s : State) : s.triggersAnswered v = true ↔ Answered v s.hist := beq_iff_eq

theorem Answered.append {es es' : List Event} (h : Answered v es) (h' : Answered v es') : Answered v (es ++ es') := by
  unfold Answered at *
  simp only [List.count_append]
  omega

theorem answered_of_no_icuEvent {es : List Event} (h : es.any isIcuEvent = false) : Answered v es := by
  have hcount {e : Event} (he : isIcuEvent e = true) : es.count e = 0 :=
    List.count_eq_zero.2 (not_mem_of_no_icuEvent h he)
  unfold Answered
  rw [hcount rfl, hcount rfl, hcount rfl, hcount rfl]

/-- The two events of a trigger answer each other, and are none of another vector's. -/
theorem answered_triggerEvents (v w : Vec) (r : Route) : Answered v [.raise w, answerEvent w r] := by
  by_cases hw : w = v
  · subst hw; cases r <;> simp [Answered, answerEvent]
  · cases r <;> simp [Answered, answerEvent, hw]

theorem Move.answered (h : Move op s t) (hs : Answered v s.hist) : Answered v t.hist := by
  obtain ⟨es, hes, hno | ⟨w, r, rfl, _⟩⟩ := h.icuEvents
  · rw [hes]; exact hs.append (answered_of_no_icuEvent hno)
  · rw [hes]; exact hs.append (answered_triggerEvents v w r)

/-- Settles O18, move by move: a move that triggers a vector appends the trigger with its answer. -/
theorem everyTriggerIsAnsweredOnce : Obligations.EveryTriggerIsAnsweredOnce := by
  intro s t v hs h
  rw [triggersAnswered_iff] at hs ⊢
  exact step_keeps (I := fun u => Answered v u.hist) (fun _ _ _ hm => hm.answered)
    (fun _ _ _ hu => hu.append (answered_of_no_icuEvent rfl)) (fun _ _ hu => hu) h hs

/-! The vectors that a wired block raises. -/

/-- The induction over what a step does, when only moves of the host's operations keep the property: no other operation is
executed at the top level (R119). -/
theorem step_keeps_of_hostMoves {I : State → Prop} (hm : ∀ i u w, i.agent = .host → Move i u w → I u → I w)
    (hr : ∀ u c, I u → I (u.raise c)) (hio : ∀ u p, I u → I (u.setIo p))
    (h : step s = .next t) (hi : I s) : I t := by
  obtain ⟨_, rfl⟩ | ⟨w, rest, _, ⟨_, rfl⟩ | ⟨_, ⟨code, rfl⟩ | ⟨i, _, ha, he⟩⟩⟩ := step_cases h
  · exact hi
  · exact hio _ _ hi
  · exact hr _ _ (hio _ _ hi)
  · obtain ⟨_, rfl⟩ | ⟨_, hp | ⟨u, c, hp, rfl⟩⟩ := exec_reaches he
    · exact hio _ _ hi
    · exact hp.keeps (fun u w => hm i u w ha) (hio _ _ hi)
    · exact hr _ _ (hp.keeps (fun u w => hm i u w ha) (hio _ _ hi))

/-- In a wired block the ICU's handlers all trigger `VEC_APBP` (R54). -/
theorem handlerVec_of_wired (hs : s.wired = true) (hv : s.handlerVec v) : v ∈ wiredVecs := by
  obtain ⟨⟨hdata, hsem⟩, hdataD, hsemD⟩ := (wired_iff s).1 hs
  suffices heq : v = Config.vecApbp by subst heq; decide
  obtain ⟨_ | _, ⟨k, hk⟩ | hk⟩ := hv
  · exact Handler.icu.inj (hk.symm.trans (hdata k))
  · exact Handler.icu.inj (hk.symm.trans hsem)
  · have hno := hdataD k
    rw [show s.d2c.dataH.get k = .icu v from hk] at hno
    cases hno
  · rw [show s.d2c.semH = .icu v from hk] at hsemD
    cases hsemD

/-- A move of a host operation in a wired block triggers only a vector that a source is wired to (R54). -/
theorem Move.raise_count (h : Move op s t) (ho : op.agent = .host) (hs : s.wired = true) (hv : v ∉ wiredVecs) :
    t.hist.count (.raise v) = s.hist.count (.raise v) := by
  obtain ⟨es, hes, hno | ⟨w, r, rfl, hw⟩⟩ := h.icuEvents
  · rw [hes, List.count_append, List.count_eq_zero.2 (not_mem_of_no_icuEvent hno rfl), Nat.add_zero]
  · have hwired : w ∈ wiredVecs := by
      obtain rfl | hw | hw := hw
      · cases ho
      · exact hw
      · exact handlerVec_of_wired hs hw
    have hne : w ≠ v := fun hwv => hv (hwv ▸ hwired)
    rw [hes, List.count_append]
    cases r <;> simp [answerEvent, hne]

/-- Settles O19, move by move together with the wiring: the operations that a step executes are the host's. -/
theorem onlyWiredVectorsAreRaised : Obligations.OnlyWiredVectorsAreRaised := by
  intro s t hs h v hv
  refine (step_keeps_of_hostMoves
    (I := fun u => u.wired = true ∧ u.hist.count (.raise v) = s.hist.count (.raise v))
    (fun _ _ _ ha hm hu => ?move) (fun _ _ hu => ?raise) (fun _ _ hu => hu) h ⟨hs, rfl⟩).2
  case move => exact ⟨hm.wired hu.1, (hm.raise_count ha hu.1 hv).trans hu.2⟩
  case raise => exact ⟨hu.1, by simpa using hu.2⟩

/-! The operations of the ICU. -/

/-- A trigger as an operation, of a vector not being triggered (R56). -/
theorem exec_triggerSingle (hf : s.fault = none) (ha : vecGet s.icu.active v = false) :
    exec (.triggerSingle v) s = .next (s.afterTrigger v) := by
  rw [exec_eq_body hf, execBody, trigger_eq ha, Eff.outcome_done]

/-- Settles O25: the state after a trigger is the one of the vector's route. -/
theorem triggerDeliversByItsRoute : Obligations.TriggerDeliversByItsRoute := by
  refine ⟨fun v => issuedAs_of_wellFormed rfl, fun s v hf => ⟨fun ha => ?reentrant, fun ha => ?routes, fun c => ?faulted⟩⟩
  case reentrant => rw [exec_eq_body hf, execBody, trigger_reentrant ha, Eff.outcome_raised, raise_eq_withFault hf]
  case routes =>
    rw [exec_triggerSingle hf ha]
    refine ⟨fun hr => ?_, fun hr => ?_, fun hr => ?_⟩ <;> simp only [State.afterTrigger, hr, answerEvent, signalled]
  case faulted => rw [exec_eq_transact, transact_faulted rfl]

/-- `ICU_SET_ROUTE` with a route's code writes that route (R57). -/
theorem exec_icuSetRoute (hf : s.fault = none) {r : BitVec 2} {d : Route} (hr : routeOf r = some d) :
    exec (.icuSetRoute v r) s = .next (s.setRoute v d) := by
  simp only [exec_eq_body hf, execBody, icuSetRoute, hr, Eff.outcome_done]

/-- The route code `11` is refused whatever the vector and the lanes (R49). -/
theorem decode_routeReserved (v : Vec) (x1 x2 x3 : Word) :
    decode ⟨Header.toWord ⟨0x29, 0, 0, 0, v, 3⟩, x1, x2, x3⟩ = .error .routeReserved := by
  unfold decode
  rw [Header.ofWord_toWord]
  change decodeRoute ⟨0x29, 0, 0, 0, v, 3⟩ .icuSetRoute = _
  simp [decodeRoute, checked]

/-- Settles O26: the new table is the old one with the vector's entry replaced. -/
theorem setRouteWritesOneRoute : Obligations.SetRouteWritesOneRoute := by
  refine ⟨fun v r hr => issuedAs_of_wellFormed (bne_iff_ne.2 hr), decode_routeReserved,
    fun s v hf => ⟨?reserved, fun r d hrd => ?written⟩⟩
  case reserved => rw [← raise_eq_withFault hf, exec_eq_body hf]; rfl
  case written =>
    have hr : routeOf r = some d := by
      simp only [List.mem_cons, Prod.mk.injEq, List.not_mem_nil, or_false] at hrd
      obtain ⟨rfl, rfl⟩ | ⟨rfl, rfl⟩ | ⟨rfl, rfl⟩ := hrd <;> rfl
    exact ⟨vecSet s.icu.route v d, exec_icuSetRoute hf hr, vecGet_vecSet_self _ v d,
      fun w hw => vecGet_vecSet_ne _ d hw⟩

/-- Settles O27: the ICU's call is the body of `TRIGGER_SINGLE`. -/
theorem handlerCallDoesWhatItsKindSays : Obligations.HandlerCallDoesWhatItsKindSays := by
  intro s src hf
  refine ⟨fun v => ?icu, fun t => ?host, ?none⟩
  case icu => rw [exec_eq_body hf]; rfl
  case host => exact callHandler_eq (h := .host t) rfl src
  case none => exact callHandler_eq (h := .none) rfl src

end Sys2Proof.Machine
end

section
/-! PROOFS. The family of 41_timer: a timer started and stopped (R62), its tick (R63, R64), and what R65 derives from them,
the range of its counter and one firing for each period. -/

namespace Sys2Proof.Machine

variable {op : Instr} {s t : State} {k : UnitId} {p : Word}

/-! The counter. -/

/-- A counter that has not run out counts down by one, without the wrap of R63. -/
theorem pred_toNat {c : Word} (h : 1 ≤ c.toNat) : (c - 1).toNat = c.toNat - 1 :=
  BitVec.toNat_sub_of_le (BitVec.le_def.2 h)

/-- A word that is not zero is at least 1 as a number. -/
theorem one_le_toNat {c : Word} (h : c ≠ 0) : 1 ≤ c.toNat := Nat.one_le_iff_ne_zero.2 (BitVec.toNat_ne.1 h)

/-- Setting the counter of a running timer leaves it running with its period. -/
theorem setCounter_of_running (hr : (s.timer.get k).running = true) (c : Word) :
    setCounter k c s = { s with timer := s.timer.set k ⟨true, (s.timer.get k).period, c⟩ } := by
  rw [← hr]; rfl

/-! The range of the counters. -/

/-- A running timer that is in range has its counter between 1 and its period. -/
theorem counter_range (hs : s.timersWf = true) (hr : (s.timer.get k).running = true) :
    1 ≤ (s.timer.get k).counter.toNat ∧ (s.timer.get k).counter.toNat ≤ (s.timer.get k).period.toNat :=
  (Timer.wf_iff _).1 ((timersWf_iff s).1 hs k) hr

theorem setCounter_timersWf (hs : s.timersWf = true) {c : Word} (hpos : 1 ≤ c.toNat)
    (hle : c.toNat ≤ (s.timer.get k).period.toNat) : (setCounter k c s).timersWf = true :=
  setTimer_timersWf hs ((Timer.wf_iff _).2 fun _ => ⟨hpos, hle⟩)

/-- Where no vector is being triggered, a tick counts inside the range or reloads (R65): a tick caught by a trigger, which
would leave the counter 0, cannot happen. -/
theorem Move.timersWf (h : Move op s t) (hidle : s.handlersIdle) (hs : s.timersWf = true) : t.timersWf = true := by
  cases h with
  | timerStart k p _ hp => exact setTimer_timersWf hs ((Timer.wf_iff _).2 fun _ => ⟨one_le_toNat hp, le_rfl⟩)
  | timerStop k => exact setTimer_timersWf hs ((Timer.wf_iff _).2 fun hr => by cases hr)
  | timerCount k _ hr hne =>
    obtain ⟨hpos, hle⟩ := counter_range hs hr
    exact setCounter_timersWf hs (one_le_toNat hne) (by rw [pred_toNat hpos]; omega)
  | timerExpire k _ hr =>
    obtain ⟨hpos, hle⟩ := counter_range hs hr
    exact setCounter_timersWf (s := s.afterTrigger (timerVec k)) hs (hpos.trans hle) le_rfl
  | timerCaught k _ _ _ ha => rw [hidle.1, vecGet_idle] at ha; cases ha
  | reset => rfl
  | apbp c p => cases c <;> exact hs
  | _ => exact hs

/-- Settles O11, move by move together with what excludes a caught tick: no vector is being triggered between moves. -/
theorem runningTimersStayInRange : Obligations.RunningTimersStayInRange := by
  intro s t hq hs h
  obtain ⟨hidle, -⟩ := (quiet_iff s).1 hq
  exact (step_keeps (I := fun u => u.handlersIdle ∧ u.timersWf = true)
    (fun _ _ _ hm hu => ⟨hm.handlersIdle hu.1, hm.timersWf hu.1 hu.2⟩) (fun _ _ _ hu => hu) (fun _ _ hu => hu) h
    ⟨hidle, hs⟩).2

/-! The two operations. -/

/-- Settles O28: each enable with each period is one branch of the body. -/
theorem timerCfgStartsStopsOrFaults : Obligations.TimerCfgStartsStopsOrFaults := by
  refine ⟨fun k p => issuedAs_of_wellFormed rfl, fun k => issuedAs_of_wellFormed rfl,
    fun s k hf => ⟨fun p hp => ⟨?started, ?encoding⟩, ?periodZero, ?stopped⟩⟩
  case started => rw [exec_eq_body hf, execBody, timerCfg, if_pos rfl, if_neg hp]; rfl
  case encoding =>
    rw [exec_eq_body hf, execBody, timerCfg, if_neg Bool.false_ne_true, if_neg hp, raise_eq_withFault hf]; rfl
  case periodZero => rw [exec_eq_body hf, execBody, timerCfg, if_pos rfl, if_pos rfl, raise_eq_withFault hf]; rfl
  case stopped => rw [exec_eq_body hf]; rfl

/-- The vector of R63, written out, is the one that the timer's expiry is wired to. -/
theorem timerVec_eq_ite (k : UnitId) : (if k = .u0 then 0xA else 0x9) = timerVec k := by cases k <;> rfl

/-- Settles O29: the counter is 1 exactly when the tick reaches 0, and then the trigger is answered or caught. -/
theorem timerTickCountsAndFires : Obligations.TimerTickCountsAndFires := by
  refine ⟨fun k => issuedAs_of_wellFormed rfl, fun s k hf => ⟨fun hr => ?disabled, fun hr hc => ?counts, fun hr hc => ?zero⟩⟩
  case disabled => rw [exec_eq_body hf, execBody, timerTick_disabled hr, Eff.outcome_done]
  case counts =>
    refine ⟨(s.timer.get k).counter - 1, ?_, ?_⟩
    · rw [BitVec.toNat_sub, Nat.add_comm]; rfl
    · rw [exec_eq_body hf, execBody, timerTick_count hr (sub_ne_zero.2 hc), Eff.outcome_done, setCounter_of_running hr]
  case zero =>
    rw [timerVec_eq_ite]
    refine ⟨fun ha => ?fires, fun ha => ?caught⟩
    case fires =>
      rw [exec_eq_body hf, execBody, timerTick_expire hr (sub_eq_zero.2 hc) ha, Eff.outcome_done,
        setCounter_of_running (s := s.afterTrigger (timerVec k)) hr]
      rfl
    case caught =>
      rw [exec_eq_body hf, execBody, timerTick_caught hr (sub_eq_zero.2 hc) ha, Eff.outcome_raised,
        raise_eq_withFault (s := setCounter k 0 s) hf, setCounter_of_running hr]

/-! One firing for each period. -/

/-- Timer `k` runs with period `p`, `e` ticks into it, on a block without a fault that may trigger its vector. -/
structure State.InPhase (s : State) (k : UnitId) (p : Word) (e : Nat) : Prop where
  fault_none : s.fault = none
  vec_idle : vecGet s.icu.active (timerVec k) = false
  running : (s.timer.get k).running = true
  period : (s.timer.get k).period = p
  elapsed : (s.timer.get k).counter.toNat + e = p.toNat
  elapsed_lt : e < p.toNat

/-- A firing of timer `k` appends its vector's trigger once: the answer to a trigger is not a trigger. -/
theorem count_raise_triggerEvents (v : Vec) (r : Route) : [.raise v, answerEvent v r].count (.raise v) = 1 := by
  cases r <;> simp [answerEvent]

/-- Setting the counter of a timer in its period changes the phase alone. -/
theorem State.InPhase.withCounter {e : Nat} (h : s.InPhase k p e) {c : Word} {d : Nat} (hd : c.toNat + d = p.toNat)
    (hlt : d < p.toNat) : (setCounter k c s).InPhase k p d where
  fault_none := h.fault_none
  vec_idle := h.vec_idle
  running := by simpa [setCounter] using h.running
  period := by simpa [setCounter] using h.period
  elapsed := by simpa [setCounter] using hd
  elapsed_lt := hlt

/-- A trigger leaves the phase of a timer. -/
theorem State.InPhase.afterTrigger {e : Nat} (h : s.InPhase k p e) (v : Vec) : (s.afterTrigger v).InPhase k p e :=
  ⟨h.fault_none, h.vec_idle, h.running, h.period, h.elapsed, h.elapsed_lt⟩

/-- A tick moves the phase on by one, and the timer fires when that ends the period (R63). -/
theorem timerTick_inPhase {e : Nat} (h : s.InPhase k p e) :
    ∃ t, timerTick k s = .done () t ∧ t.InPhase k p ((e + 1) % p.toNat) ∧
      t.hist.count (.raise (timerVec k)) = s.hist.count (.raise (timerVec k)) + (e + 1) / p.toNat := by
  have helapsed := h.elapsed
  have hlt := h.elapsed_lt
  by_cases hz : (s.timer.get k).counter - 1 = 0
  case pos =>
    have hone : (s.timer.get k).counter.toNat = 1 := by rw [sub_eq_zero.1 hz]; rfl
    have hend : e + 1 = p.toNat := by omega
    refine ⟨_, timerTick_expire h.running hz h.vec_idle, ?_, ?_⟩
    · rw [hend, Nat.mod_self, h.period]
      exact (h.afterTrigger _).withCounter rfl (by omega)
    · rw [hend, Nat.div_self (by omega), ← count_raise_triggerEvents (timerVec k) (vecGet s.icu.route (timerVec k)),
        ← List.count_append]
      rfl
  case neg =>
    have hcount := pred_toNat (c := (s.timer.get k).counter) (by omega)
    have hleft := one_le_toNat hz
    have hin : e + 1 < p.toNat := by omega
    refine ⟨_, timerTick_count h.running hz, ?_, ?_⟩
    · rw [Nat.mod_eq_of_lt hin]
      exact h.withCounter (by omega) hin
    · rw [Nat.div_eq_of_lt hin]; rfl

/-- An operation that completes is the first of a chain. -/
theorem chain_cons {i : Instr} (is : List Instr) (h : exec i s = .next t) : chain (i :: is) s = chain is t := by
  rw [chain, h]

/-- `n` ticks move the phase on by `n`, and the timer fires at each end of a period that they pass. -/
theorem chain_ticks_inPhase {e : Nat} (n : Nat) (h : s.InPhase k p e) :
    ∃ t, chain (List.replicate n (.timerTick k)) s = .next t ∧ t.InPhase k p ((e + n) % p.toNat) ∧
      t.hist.count (.raise (timerVec k)) = s.hist.count (.raise (timerVec k)) + (e + n) / p.toNat := by
  induction n generalizing s e with
  | zero =>
    refine ⟨s, rfl, ?_, ?_⟩
    · rwa [Nat.add_zero, Nat.mod_eq_of_lt h.elapsed_lt]
    · rw [Nat.add_zero, Nat.div_eq_of_lt h.elapsed_lt, Nat.add_zero]
  | succ n ih =>
    obtain ⟨u, hu, hphase, hfired⟩ := timerTick_inPhase h
    obtain ⟨t, ht, hphase', hfired'⟩ := ih hphase
    have hexec : exec (.timerTick k) s = .next u := by rw [exec_eq_body h.fault_none, execBody, hu, Eff.outcome_done]
    have hpassed : e + (n + 1) = p.toNat * ((e + 1) / p.toNat) + ((e + 1) % p.toNat + n) := by
      have := Nat.div_add_mod (e + 1) p.toNat; omega
    refine ⟨t, (chain_cons _ hexec).trans ht, ?_, ?_⟩
    · rwa [hpassed, Nat.mul_add_mod]
    · rw [hfired', hfired, hpassed, Nat.mul_add_div (Nat.zero_lt_of_lt h.elapsed_lt), Nat.add_assoc]

/-- Settles O30: a timer that was just loaded is at the start of its period. -/
theorem timerFiresOncePerPeriod : Obligations.TimerFiresOncePerPeriod := by
  intro s k p n hf hp ht ha
  have hpos : 0 < p.toNat := one_le_toNat hp
  have hstart : s.InPhase k p 0 := ⟨hf, ha, by rw [ht], by rw [ht], by rw [ht]; rfl, hpos⟩
  obtain ⟨t, hchain, hphase, hfired⟩ := chain_ticks_inPhase n hstart
  rw [Nat.zero_add] at hphase hfired
  exact ⟨t, hchain, hfired, Nat.eq_sub_of_add_eq hphase.elapsed, hphase.fault_none⟩

end Sys2Proof.Machine
end

section
/-! PROOFS. The family of 42_dma_ahbm: a transfer with its range checks, its bytes and its completion (R67, R71), the single
external access (R68, R69), and the host's installs (R70, R83, R86). -/

namespace Sys2Proof.Machine

variable {s t : State} {a e len : Word} {b : Byte} {dir : Dir} {tok : Half}

/-! A transfer. -/

/-- A transfer in range whose bytes move completes on `0xF` (R67, R71). -/
theorem exec_dmaStart_of_bytes (hf : s.fault = none) (hs : a.toNat + len.toNat ≤ s.cfg.shmemSize)
    (he : e.toNat + len.toNat ≤ 2 ^ 32) (ha : vecGet t.icu.active 0xF = false)
    (hb : dmaBytes dir a e len.toNat 0 (s.setDma ⟨dir, a, e, len⟩) = .done () t) :
    exec (.dmaStart dir a e len) s = .next (t.afterTrigger 0xF) := by
  rw [exec_eq_body hf, execBody, dmaStart_inRange hs he, hb, Eff.bind_done, callHandler, Config.vecDma, trigger_eq ha,
    Eff.outcome_done]

/-- Settles O33: the recorded writes of the byte loop, or none, and then the completion. -/
theorem dmaOutWritesEveryByteInOrder : Obligations.DmaOutWritesEveryByteInOrder := by
  refine ⟨fun a e len => issuedAs_of_wellFormed rfl,
    fun s a e len hf hs he ha => ⟨fun tok hc => ?recorded, fun hc => ?dropped⟩⟩
  case recorded =>
    have hb := dmaBytes_out (e := e) len.toNat 0 (s.setDma ⟨.toExt, a, e, len⟩) hc hs
    simp only [Nat.zero_add] at hb
    exact exec_dmaStart_of_bytes hf hs he ha hb
  case dropped =>
    exact exec_dmaStart_of_bytes hf hs he ha (dmaBytes_out_dropped len.toNat 0 (s.setDma ⟨.toExt, a, e, len⟩) hc hs)

/-- Settles O34: the byte loop stores the default over the run, and then the completion. -/
theorem dmaInWithoutCallbackClearsTheRun : Obligations.DmaInWithoutCallbackClearsTheRun := by
  refine ⟨fun a e len => issuedAs_of_wellFormed rfl, fun s a e len hf hw hs he ha hc => ?_⟩
  obtain ⟨m, hb, hrun, hrest⟩ := dmaBytes_in_default (e := e) len.toNat 0 (s.setDma ⟨.fromExt, a, e, len⟩) hw hc hs
  exact ⟨m, exec_dmaStart_of_bytes hf hs he ha hb, hrun, hrest⟩

/-- Settles O35: the byte loop draws, records and stores the answers, and then the completion. -/
theorem dmaInStoresTheHostsAnswersInOrder : Obligations.DmaInStoresTheHostsAnswersInOrder := by
  intro s a e len tok hf hw hs he ha hc
  obtain ⟨bs, m, draws, hlen, hwaiting, hb, hrun, hrest⟩ :=
    dmaBytes_in (e := e) len.toNat 0 (s.setDma ⟨.fromExt, a, e, len⟩) hw hc hs
  simp only [Nat.zero_add] at hb hrun
  exact ⟨bs, m, draws, hlen, hwaiting, exec_dmaStart_of_bytes hf hs he ha hb, hrun, hrest⟩

/-- A SharedMemory run past its end is refused before anything else (R67, R112). -/
theorem dmaStart_memRange (hs : s.cfg.shmemSize < a.toNat + len.toNat) :
    dmaStart dir a e len s = .raised (s.raise .memRange) := by
  have hfits : shmRunFits a len s = false := decide_eq_false (Nat.not_le.2 hs)
  simp [dmaStart, hfits]

/-- An external run past its end is refused when the SharedMemory run fits (R67, R112). -/
theorem dmaStart_extRange (hs : a.toNat + len.toNat ≤ s.cfg.shmemSize) (he : 2 ^ 32 < e.toNat + len.toNat) :
    dmaStart dir a e len s = .raised (s.raise .extRange) := by
  have hfits : shmRunFits a len s = true := decide_eq_true hs
  have hpasses : extRunFits e len = false := decide_eq_false (Nat.not_le.2 he)
  simp [dmaStart, hfits, hpasses]

/-- Settles O36: both checks come before the configuration is written. -/
theorem dmaOutOfRangeFaultsBeforeAnyByte : Obligations.DmaOutOfRangeFaultsBeforeAnyByte := by
  refine fun s dir a e len hf => ⟨fun hs => ?_, fun hs he => ?_⟩
  · rw [exec_eq_body hf, execBody, dmaStart_memRange hs, Eff.outcome_raised, raise_eq_withFault hf]
  · rw [exec_eq_body hf, execBody, dmaStart_extRange hs he, Eff.outcome_raised, raise_eq_withFault hf]

/-! A single external access. -/

/-- Past the answers that wait, a draw gives a free byte and counts it (log 4). -/
theorem drawByte_free (h : s.io.answers = []) :
    drawByte s = (Config.extAnswer s.io.draws, s.setIo { s.io with draws := s.io.draws + 1 }) := by
  simp [drawByte, h]

theorem extRead8_default (hc : s.ahbm.cb = none) : extRead8 a s = .done Config.ahbmDefault s := by
  simp [extRead8, hc]

/-- An installed read returns the byte drawn and records it (R68). -/
theorem extRead8_installed (hc : s.ahbm.cb = some tok) (hd : drawByte s = (b, t)) :
    extRead8 a s = .done b (t.emit (.extRd a b)) := by
  simp [extRead8, hc, hd]

/-- `EXT_READ8` on its own leaves the byte returned in `io.extReply` (log 8). -/
theorem exec_extRead8 (hf : s.fault = none) (h : extRead8 a s = .done b t) :
    exec (.extRead8 a) s = .next (t.setIo { t.io with extReply := some b }) := by
  simp only [exec_eq_body hf, execBody, h, Eff.bind_done, Eff.outcome_done]

/-- Settles O37, by whether a callback is installed and an answer waits. -/
theorem extReadReturnsDefaultOrAnswer : Obligations.ExtReadReturnsDefaultOrAnswer := by
  refine ⟨fun a => issuedAs_of_wellFormed rfl,
    fun s a hf => ⟨fun hc => ?default, fun tok b rest hc hw => ?waiting,
      fun tok hc hw => ⟨Config.extAnswer s.io.draws, ?free⟩⟩⟩
  case default => exact exec_extRead8 hf (extRead8_default hc)
  case waiting => exact exec_extRead8 hf (extRead8_installed hc (drawByte_answer hw))
  case free => exact exec_extRead8 hf (extRead8_installed hc (drawByte_free hw))

theorem extWrite8_dropped (hc : s.ahbm.cb = none) : extWrite8 a b s = .done () s := by
  simp [extWrite8, hc]

theorem extWrite8_installed (hc : s.ahbm.cb = some tok) : extWrite8 a b s = .done () (s.emit (.extWr a b)) := by
  simp [extWrite8, hc]

/-- Settles O38, by whether a callback is installed. -/
theorem extWriteIsRecordedOrDropped : Obligations.ExtWriteIsRecordedOrDropped := by
  refine ⟨fun a b => issuedAs_of_wellFormed rfl, fun s a b hf => ⟨fun hc => ?dropped, fun tok hc => ?recorded⟩⟩
  case dropped => rw [exec_eq_body hf, execBody, extWrite8_dropped hc, Eff.outcome_done]
  case recorded => rw [exec_eq_body hf, execBody, extWrite8_installed hc]; rfl

/-! The host's installs. -/

/-- The three indices that name a slot, and their slots (R47). -/
theorem slotOf_of_mem {i : BitVec 2} {k : Slot}
    (h : (i, k) ∈ [((0 : BitVec 2), Slot.s0), (1, .s1), (2, .s2)]) : slotOf i = some k := by
  simp only [List.mem_cons, Prod.mk.injEq, List.not_mem_nil, or_false] at h
  obtain ⟨rfl, rfl⟩ | ⟨rfl, rfl⟩ | ⟨rfl, rfl⟩ := h <;> rfl

/-- Settles O44: an install is one update of the state, for a slot's handler behind the index check. -/
theorem hostInstallsReplaceTheHandler : Obligations.HostInstallsReplaceTheHandler := by
  refine ⟨fun i t => ⟨issuedAs_of_wellFormed rfl, issuedAs_of_wellFormed rfl, issuedAs_of_wellFormed rfl⟩,
    fun s t hf => ⟨fun i k hik => ?slot, ?index, ?semaphore, ?callback⟩⟩
  case slot => rw [exec_eq_body hf, execBody, withSlot_eq (slotOf_of_mem hik)]; rfl
  case index => rw [exec_eq_body hf, execBody, withSlot_index, Eff.outcome_raised, raise_eq_withFault hf]
  case semaphore => rw [exec_eq_body hf]; rfl
  case callback => rw [exec_eq_body hf]; rfl

end Sys2Proof.Machine
end

section
/-! PROOFS. The family of 43_apbp: a data slot and the semaphore sent (R73, R76), the ready flags read (R74), a value received
(R75, R77), and what R93 derives from them. -/

namespace Sys2Proof.Machine

variable {op : Instr} {s t : State} {c : Chan} {i : BitVec 2} {k : Slot} {h : Handler} {src : Source} {who : Agent}

/-! A value sent. -/

/-- A send through a slot's index is the call of the slot's handler on the block with the slot filled (R73). -/
theorem apbpSend_eq (hk : slotOf i = some k) (x : Half) :
    apbpSend c i x s = callHandler ((s.apbp c).dataH.get k) (.data k) (s.setApbp c ((s.apbp c).fill k x)) := by
  simp only [apbpSend, withSlot_eq hk, apbp_setApbp, Apbp.fill_dataH]

/-- A write of the semaphore is the call of its handler on the block with the semaphore written (R76). -/
theorem apbpSetSem_eq (x : Half) :
    apbpSetSem c x s = callHandler (s.apbp c).semH .sem (s.setApbp c ((s.apbp c).fillSem x)) := by
  simp only [apbpSetSem, apbp_setApbp, Apbp.fillSem_semH]

/-- An operation that ends in the call of a handler whose vector, if it has one, is not being triggered (R55). -/
theorem exec_of_call (hf : s.fault = none) (hb : execBody op s = callHandler h src t) (hm : t.mayCall h = true) :
    exec op s = .next (t.afterHandler h src) := by
  rw [exec_eq_body hf, hb, callHandler_eq hm, Eff.outcome_done]

/-- An operation that ends in the call of a handler whose vector is being triggered (R55, R56). -/
theorem exec_of_reentrantCall (hf : s.fault = none) (hb : execBody op s = callHandler h src t) (ht : t.fault = none)
    (hm : t.mayCall h = false) : exec op s = .next (t.withFault .reentrantTrigger) := by
  rw [exec_eq_body hf, hb, callHandler_reentrant hm, Eff.outcome_raised, raise_eq_withFault ht]

/-- Settles O39: each agent's send is the call of the slot's handler, on the channel with the slot filled; a full
slot is filled like an empty one (R78, log 14). -/
theorem sendFillsTheSlotAndCallsItsHandler : Obligations.SendFillsTheSlotAndCallsItsHandler := by
  refine ⟨fun i x => ⟨issuedAs_of_wellFormed rfl, issuedAs_of_wellFormed rfl⟩,
    fun s x hf => ⟨fun i k hik => ?slot, fun hw => ((wired_iff s).1 hw).1.1, ?index, ?dspIndex⟩⟩
  case slot =>
    have hk := slotOf_of_mem hik
    exact ⟨fun hm => exec_of_call hf (apbpSend_eq (c := .c2d) hk x) hm,
      fun hm => exec_of_reentrantCall hf (apbpSend_eq (c := .c2d) hk x) hf hm,
      fun hm => exec_of_call hf (apbpSend_eq (c := .d2c) hk x) hm,
      fun hm => exec_of_reentrantCall hf (apbpSend_eq (c := .d2c) hk x) hf hm⟩
  case index => exact (slotIndexThreeFaults s x hf (.sendData 3 x) (by simp)).2
  case dspIndex => exact (slotIndexThreeFaults s x hf (.dspSendData 3 x) (by simp)).2

/-- Settles O42: each agent's write is the call of the semaphore's handler, on the channel with the semaphore written. -/
theorem setSemaphoreWritesAndCallsItsHandler : Obligations.SetSemaphoreWritesAndCallsItsHandler :=
  ⟨fun _ => ⟨issuedAs_of_wellFormed rfl, issuedAs_of_wellFormed rfl⟩,
    fun s x hf => ⟨fun hw => ((wired_iff s).1 hw).1.2,
      fun hm => exec_of_call hf (apbpSetSem_eq (c := .c2d) x) hm,
      fun hm => exec_of_reentrantCall hf (apbpSetSem_eq (c := .c2d) x) hf hm,
      fun hm => exec_of_call hf (apbpSetSem_eq (c := .d2c) x) hm,
      fun hm => exec_of_reentrantCall hf (apbpSetSem_eq (c := .d2c) x) hf hm⟩⟩

/-! A flag or a value read. -/

/-- An operation that reads one thing of the block and gives it to its agent (R11). -/
theorem exec_of_read {α : Type} {e : Eff α} {a : α} {f : α → Nat} (hf : s.fault = none)
    (hb : execBody op s = e.bind fun a u => giveResult who (f a) u) (he : e = .done a t) :
    exec op s = .next (t.withResult who (f a)) := by
  rw [exec_eq_body hf, hb, he]
  rfl

/-- A ready flag is read without a change (R74). -/
theorem apbpIsReady_eq (hk : slotOf i = some k) : apbpIsReady c i s = .done ((s.apbp c).ready.get k) s :=
  withSlot_eq hk _ s

/-- A slot's value is read and the slot consumed (R75). -/
theorem apbpRecv_eq (hk : slotOf i = some k) :
    apbpRecv c i s = .done ((s.apbp c).data.get k) (s.setApbp c ((s.apbp c).consume k)) :=
  withSlot_eq hk _ s

theorem boolResult_not (b : Bool) : boolResult (!b) = if b then 0 else 1 := by cases b <;> rfl

/-- Settles O40: the flag read is given to the agent as it is, but for the host's query whether a slot is empty. -/
theorem readyQueriesHaveNoSideEffect : Obligations.ReadyQueriesHaveNoSideEffect := by
  refine ⟨fun i => ⟨issuedAs_of_wellFormed rfl, issuedAs_of_wellFormed rfl, issuedAs_of_wellFormed rfl,
    issuedAs_of_wellFormed rfl⟩, fun s hf => ⟨fun i k hik => ?slot, fun op hop => ?index⟩⟩
  case slot =>
    have hk := slotOf_of_mem hik
    rw [← boolResult_not]
    exact ⟨exec_of_read (f := fun b => boolResult !b) hf rfl (apbpIsReady_eq hk),
      exec_of_read (f := boolResult) hf rfl (apbpIsReady_eq hk),
      exec_of_read (f := boolResult) hf rfl (apbpIsReady_eq hk),
      exec_of_read (f := boolResult) hf rfl (apbpIsReady_eq hk)⟩
  case index =>
    simp only [List.mem_cons, List.not_mem_nil, or_false] at hop
    obtain rfl | rfl | rfl | rfl := hop <;> exact (slotIndexThreeFaults s 0 hf _ (by simp)).2

/-- Settles O41: the value read is given to the agent, on the channel with the slot consumed. -/
theorem receiveConsumesTheFlagAndKeepsTheValue : Obligations.ReceiveConsumesTheFlagAndKeepsTheValue := by
  refine ⟨fun i => ⟨issuedAs_of_wellFormed rfl, issuedAs_of_wellFormed rfl⟩,
    fun s hf => ⟨fun i k hik => ?slot, ?index, ?dspIndex⟩⟩
  case slot =>
    have hk := slotOf_of_mem hik
    exact ⟨exec_of_read hf rfl (apbpRecv_eq hk), exec_of_read hf rfl (apbpRecv_eq hk)⟩
  case index => exact (slotIndexThreeFaults s 0 hf (.recvData 3) (by simp)).2
  case dspIndex => exact (slotIndexThreeFaults s 0 hf (.dspRecvData 3) (by simp)).2

/-- Settles O43: the value read is given to the agent, on the channel with the semaphore consumed. -/
theorem getSemaphoreConsumesTheFlag : Obligations.GetSemaphoreConsumesTheFlag :=
  ⟨⟨issuedAs_of_wellFormed rfl, issuedAs_of_wellFormed rfl⟩,
    fun _ hf => ⟨exec_of_read (e := apbpGetSem .d2c _) hf rfl rfl, exec_of_read (e := apbpGetSem .c2d _) hf rfl rfl⟩⟩

/-! A value sent and received. -/

@[simp] theorem setApbp_fault (s : State) (c : Chan) (p : Apbp) : (s.setApbp c p).fault = s.fault := by cases c <;> rfl

@[simp] theorem afterHandler_fault (s : State) (h : Handler) (src : Source) :
    (s.afterHandler h src).fault = s.fault := by cases h <;> rfl

@[simp] theorem mayCall_setApbp (s : State) (c : Chan) (p : Apbp) (h : Handler) :
    (s.setApbp c p).mayCall h = s.mayCall h := by cases c <;> rfl

@[simp] theorem afterHandler_apbp (s : State) (h : Handler) (src : Source) (c : Chan) :
    (s.afterHandler h src).apbp c = s.apbp c := by cases h <;> cases c <;> rfl

@[simp] theorem Apbp.fill_data_get (p : Apbp) (k : Slot) (x : Half) : (p.fill k x).data.get k = x :=
  PerSlot.get_set_self _ k x

@[simp] theorem Apbp.consume_data (p : Apbp) (k : Slot) : (p.consume k).data = p.data := rfl

@[simp] theorem Apbp.consume_ready_get (p : Apbp) (k : Slot) : (p.consume k).ready.get k = false :=
  PerSlot.get_set_self _ k false

/-- What a send leaves: the slot filled, and its handler called (R73). -/
def State.sent (s : State) (c : Chan) (k : Slot) (x : Half) : State :=
  (s.setApbp c ((s.apbp c).fill k x)).afterHandler ((s.apbp c).dataH.get k) (.data k)

@[simp] theorem sent_fault (x : Half) : (s.sent c k x).fault = s.fault := by simp [State.sent]

@[simp] theorem sent_apbp (x : Half) : (s.sent c k x).apbp c = (s.apbp c).fill k x := by simp [State.sent]

/-- What a receive leaves: the slot consumed, and its value given to the agent (R11, R75). -/
def State.received (s : State) (who : Agent) (c : Chan) (k : Slot) : State :=
  (s.setApbp c ((s.apbp c).consume k)).withResult who ((s.apbp c).data.get k).toNat

@[simp] theorem received_fault : (s.received who c k).fault = s.fault := setApbp_fault _ _ _

@[simp] theorem received_apbp : (s.received who c k).apbp c = (s.apbp c).consume k := by cases c <;> rfl

@[simp] theorem received_hist :
    (s.received who c k).hist = s.hist ++ [.result who ((s.apbp c).data.get k).toNat] := by cases c <;> rfl

/-- A send, and two receives of the same slot: both give the value sent, and the flag is cleared (R93). -/
theorem chain_send_receive_receive {send recv : Instr} {x : Half} (hf : s.fault = none) (hk : slotOf i = some k)
    (hsend : ∀ u, execBody send u = apbpSend c i x u)
    (hrecv : ∀ u, execBody recv u = (apbpRecv c i u).bind fun y w => giveResult who y.toNat w)
    (hm : s.mayCall ((s.apbp c).dataH.get k) = true) :
    ∃ t : State, chain [send, recv, recv] s = .next t ∧
      [.result who x.toNat, .result who x.toNat] <:+ t.hist ∧
      (t.apbp c).ready.get k = false ∧ (t.apbp c).data.get k = x ∧ t.fault = none := by
  have sent : exec send s = .next (s.sent c k x) :=
    exec_of_call hf ((hsend s).trans (apbpSend_eq hk x)) (by rw [mayCall_setApbp, hm])
  have receive {u : State} (hu : u.fault = none) : exec recv u = .next (u.received who c k) :=
    exec_of_read hu (hrecv u) (apbpRecv_eq hk)
  refine ⟨((s.sent c k x).received who c k).received who c k, ?chain, ⟨(s.sent c k x).hist, ?results⟩, ?flag, ?value,
    ?unfaulted⟩
  case chain => rw [chain_cons _ sent, chain_cons _ (receive (by simp [hf])), chain_cons _ (receive (by simp [hf])), chain]
  case results => simp
  case flag => simp
  case value => simp
  case unfaulted => simp [hf]

/-- Settles O46: the host's channel and the Processor's carry values alike. -/
theorem sentValueIsReceivedTwice : Obligations.SentValueIsReceivedTwice :=
  fun _ _ _ _ hf hik => ⟨chain_send_receive_receive (c := .c2d) hf (slotOf_of_mem hik) (fun _ => rfl) (fun _ => rfl),
    chain_send_receive_receive (c := .d2c) hf (slotOf_of_mem hik) (fun _ => rfl) (fun _ => rfl)⟩

end Sys2Proof.Machine
end

section
/-! PROOFS. The family of 44_btdmp: a unit started and stopped (R97), its firing rule (R95, R96) and its tick (R98). -/

namespace Sys2Proof.Machine

variable {s : State} {k : UnitId} {u : Btdmp}

/-! A unit started and stopped. -/

/-- Settles O31: each enable with each period is one branch of the body. -/
theorem btdmpCfgStartsStopsOrFaults : Obligations.BtdmpCfgStartsStopsOrFaults := by
  refine ⟨fun k q => issuedAs_of_wellFormed rfl, fun k => issuedAs_of_wellFormed rfl,
    fun s k hf => ⟨fun q hq => ⟨?started, ?encoding⟩, ?periodZero, ?stopped⟩⟩
  case started => rw [exec_eq_body hf, execBody, btdmpCfg, if_pos rfl, if_neg hq]; rfl
  case encoding =>
    rw [exec_eq_body hf, execBody, btdmpCfg, if_neg Bool.false_ne_true, if_neg hq, raise_eq_withFault hf]; rfl
  case periodZero => rw [exec_eq_body hf, execBody, btdmpCfg, if_pos rfl, if_pos rfl, raise_eq_withFault hf]; rfl
  case stopped => rw [exec_eq_body hf]; rfl

/-! The reference policy. -/

/-- Under `Periodic` an enabled unit that reaches 0 fires and reloads (R96). -/
theorem fireStep_periodic_fires (he : u.enabled = true) (hc : u.counter = 1) :
    fireStep .periodic u = (⟨true, u.period, u.period, u.aux⟩, true) := by
  rw [fireStep_periodic he, periodicFire, if_pos (sub_eq_zero.2 hc), ← he]

/-- Under `Periodic` an enabled unit that does not reach 0 counts down (R96). -/
theorem fireStep_periodic_counts (he : u.enabled = true) (hc : u.counter ≠ 1) :
    fireStep .periodic u = (⟨true, u.period, u.counter - 1, u.aux⟩, false) := by
  rw [fireStep_periodic he, periodicFire, if_neg (sub_ne_zero.2 hc), ← he]

/-! The tick. -/

/-- The block with unit `k` in the state its policy's firing rule gives (R95, R98). -/
def State.btdmpFired (s : State) (k : UnitId) : State :=
  s.setBtdmp k (fireStep s.cfg.btdmpPolicy (s.btdmp.get k)).1

/-- A tick whose unit does not fire leaves the unit in its policy's state (R98). -/
theorem btdmpTick_silent (h : (fireStep s.cfg.btdmpPolicy (s.btdmp.get k)).2 = false) :
    btdmpTick k s = .done () (s.btdmpFired k) :=
  if_neg (ne_true_of_eq_false h)

/-- A tick whose unit fires calls the ICU's handler of the vector that both units share (R98). -/
theorem btdmpTick_fires (h : (fireStep s.cfg.btdmpPolicy (s.btdmp.get k)).2 = true) :
    btdmpTick k s = callHandler (.icu Config.vecBtdmp) (.btdmp k) (s.btdmpFired k) :=
  if_pos h

/-- Writing back a unit's own entry changes nothing. -/
theorem PerUnit.set_get_self {α : Type} (p : PerUnit α) (k : UnitId) : p.set k (p.get k) = p := by cases k <;> rfl

/-- The firing rule of a disabled unit leaves the block as it is, under every policy (R95). -/
theorem btdmpFired_disabled (he : (s.btdmp.get k).enabled = false) : s.btdmpFired k = s := by
  rw [State.btdmpFired, fireStep_disabled he, State.setBtdmp, PerUnit.set_get_self]

/-- A disabled unit's tick (R98). -/
theorem btdmpTick_disabled (he : (s.btdmp.get k).enabled = false) : btdmpTick k s = .done () s := by
  rw [btdmpTick_silent (by rw [fireStep_disabled he]), btdmpFired_disabled he]

/-- Settles O32: a tick is silent or the call of the ICU's handler, which is answered or caught; which of them under
`Periodic`, the counter says. -/
theorem btdmpTickFollowsItsPolicy : Obligations.BtdmpTickFollowsItsPolicy := by
  refine ⟨fun k => issuedAs_of_wellFormed rfl, fun s k hf => ⟨fun he => ?disabled, fun hn => ?silent,
    fun hy ha => ?fires, fun hy ha => ?caught, fun hp he => ?periodic⟩⟩
  case disabled => rw [exec_eq_body hf, execBody, btdmpTick_disabled he, Eff.outcome_done]
  case silent => rw [exec_eq_body hf, execBody, btdmpTick_silent hn, Eff.outcome_done]; rfl
  case fires => exact exec_of_call (h := .icu Config.vecBtdmp) hf (btdmpTick_fires hy) (congrArg not ha)
  case caught => exact exec_of_reentrantCall hf (btdmpTick_fires hy) hf (congrArg not ha)
  case periodic => rw [hp]; exact ⟨fireStep_periodic_fires he, fireStep_periodic_counts he⟩

end Sys2Proof.Machine
end

section
/-! PROOFS. The family of 45_engine, the memory ports: a byte read for an agent (R106, R108) and a byte written (R107,
R109). -/

namespace Sys2Proof.Machine

variable {op : Instr} {s : State} {a : Word} {who : Agent}

/-- A port's read inside SharedMemory gives its agent the byte and changes nothing else (R106, R108). -/
theorem exec_portRead (hf : s.fault = none) (hb : execBody op s = portRead who a s) (ha : a.toNat < s.cfg.shmemSize) :
    exec op s = .next (s.withResult who (s.mem.get a.toNat).toNat) :=
  exec_of_read (f := BitVec.toNat) hf hb (memRead_eq ha)

/-- A port's read past SharedMemory is refused (R106, R108). -/
theorem exec_portRead_outside (hf : s.fault = none) (hb : execBody op s = portRead who a s)
    (ha : s.cfg.shmemSize ≤ a.toNat) : exec op s = .next (s.withFault .memRange) := by
  rw [exec_eq_body hf, hb, portRead, effAddr, memRead_outside ha, Eff.bind_raised, Eff.outcome_raised,
    raise_eq_withFault hf]

/-- A port's write inside SharedMemory puts the byte at the address and changes nothing else (R107, R109). -/
theorem exec_portWrite {b : Byte} (hf : s.fault = none) (hb : execBody op s = memWrite a.toNat b s)
    (ha : a.toNat < s.cfg.shmemSize) : exec op s = .next (s.setMem (s.mem.put a.toNat b)) := by
  rw [exec_eq_body hf, hb, memWrite_eq ha, Eff.outcome_done]

/-- A port's write past SharedMemory is refused (R107, R109). -/
theorem exec_portWrite_outside {b : Byte} (hf : s.fault = none) (hb : execBody op s = memWrite a.toNat b s)
    (ha : s.cfg.shmemSize ≤ a.toNat) : exec op s = .next (s.withFault .memRange) := by
  rw [exec_eq_body hf, hb, memWrite_outside ha, Eff.outcome_raised, raise_eq_withFault hf]

/-- Settles O47: the host's read and the Processor's are one port's, each for its own agent. -/
theorem memoryReadsReturnTheByte : Obligations.MemoryReadsReturnTheByte :=
  ⟨fun _ => ⟨issuedAs_of_wellFormed rfl, issuedAs_of_wellFormed rfl⟩,
    fun _ _ hf => ⟨fun ha => ⟨exec_portRead hf rfl ha, exec_portRead hf rfl ha⟩,
      fun ha => ⟨exec_portRead_outside hf rfl ha, exec_portRead_outside hf rfl ha⟩⟩⟩

/-- Settles O48: the host's write and the Processor's are one port's, and the new memory is the old one with the byte put
at the address. -/
theorem memoryWritesChangeOneByte : Obligations.MemoryWritesChangeOneByte := by
  refine ⟨fun b a => ⟨issuedAs_of_wellFormed rfl, issuedAs_of_wellFormed rfl⟩,
    fun s b a hf hw => ⟨fun ha => ⟨s.mem.put a.toNat b, ?host, ?processor, ?written, ?others⟩, fun ha => ⟨?_, ?_⟩⟩⟩
  case host => exact exec_portWrite hf rfl ha
  case processor => exact exec_portWrite hf rfl ha
  case written => exact Memory.get_put_self hw a.toNat b
  case others => exact fun x hx => Memory.get_put_ne s.mem b hx
  · exact exec_portWrite_outside (b := b) hf rfl ha
  · exact exec_portWrite_outside (b := b) hf rfl ha

end Sys2Proof.Machine
end

section
/-! PROOFS. The family of 45_engine, the Processor step (R100): a step that ends at once, one that executes an action, and
one that is stuck. -/

namespace Sys2Proof.Machine

variable {op i : Instr} {s t : State} {p q : ProcState} {w : Words} {rest : List (Option ProcMove)}

/-! How a piece of a transaction shows its end in the fault. -/

/-- A piece that completes leaves a block without a fault as it was (R28). -/
theorem Reaches.done_fault {α : Type} {a : α} (h : Reaches op s (.done a t)) (hf : s.fault = none) : t.fault = none :=
  (Path.fault h).trans hf

/-- A piece that is ended by a raised fault leaves the block faulted (R111). -/
theorem Reaches.raised_fault {α : Type} (h : Reaches op s (.raised t : Eff α)) (hf : s.fault = none) :
    ∃ c, t.fault = some c := by
  obtain ⟨u, c, hu, rfl⟩ := h
  exact ⟨c, raise_fault_first ((Path.fault hu).trans hf) c⟩

/-- How an operation's body ended, read off the next state: without a fault it completed, with one it raised it. -/
theorem execBody_of_exec (hf : s.fault = none) (hr : Reaches i s (execBody i s)) (h : exec i s = .next t) :
    (execBody i s = .done () t ∧ t.fault = none) ∨ (execBody i s = .raised t ∧ ∃ c, t.fault = some c) := by
  rw [exec_eq_body hf] at h
  cases hbody : execBody i s with
  | done _ u => rw [hbody] at h hr; cases h; exact .inl ⟨rfl, hr.done_fault hf⟩
  | raised u => rw [hbody] at h hr; cases h; exact .inr ⟨rfl, hr.raised_fault hf⟩
  | stopped f => rw [hbody] at h; cases h

/-! A step without actions. -/

/-- A step that ends at once (R100). -/
theorem procStep_done (hs : s.io.script = some (.done p) :: rest) : procStep s = .done () (s.actionBegun p rest) := by
  rw [procStep_script hs, procMoves_script (s := s.stepBegun) hs]
  rfl

/-- Settles O50: the step's one move is its end. -/
theorem procStepWithoutActions : Obligations.ProcStepWithoutActions :=
  ⟨issuedAs_of_wellFormed rfl, fun s p rest hf hs => by
    rw [exec_eq_body hf, execBody, procStep_done hs, Eff.outcome_done]; rfl⟩

/-! A step with one action. -/

/-- Only the operations that run the Processor draw its moves. -/
theorem Path.script_kept (h : Path op s t) (ho : ¬ RunsProc op) : t.io.script = s.io.script := by
  refine h.keeps (I := fun u => u.io.script = s.io.script) (fun u w hm hu => Eq.trans ?_ hu) rfl
  cases hm with
  | ports p _ hs => exact hs.resolve_right ho
  | proc _ hr => exact absurd hr ho
  | apbp c p => cases c <;> rfl
  | _ => rfl

/-- A Processor operation's body, as what its transaction can do. -/
theorem execBody_reaches (ha : i.agent = .processor) : Reaches i s (execBody i s) :=
  action_eq_body ha s ▸ action_reaches (.inr rfl) s

theorem not_runsProc_of_agent (ha : i.agent = .processor) : ¬ RunsProc i := by
  rintro (rfl | ⟨n, rfl⟩) <;> cases ha

/-- An action that completes and leaves the step's end as the next move is the whole of the step (R100). -/
theorem exec_procStep_of_done (hf : s.fault = none) (hs : s.io.script = some (.act p w) :: some (.done q) :: rest)
    (ha : actionWords w (s.actionBegun p (some (.done q) :: rest)) = .done () t)
    (ht : t.io.script = some (.done q) :: rest) :
    exec .procStep s = .next { t with proc := q, io := { t.io with script := rest } } := by
  rw [exec_eq_body hf, execBody, procStep_script hs, procMoves_script (s := s.stepBegun) hs]
  change ((actionWords w (s.actionBegun p (some (.done q) :: rest))).bind _).outcome = _
  rw [ha, Eff.bind_done, List.length_cons, ← Nat.add_assoc, procMoves_script ht]
  rfl

/-- Settles O51: an action that completes leaves no fault and the step's end as the next move; one that raises a fault
ends the step. -/
theorem procStepExecutesItsAction : Obligations.ProcStepExecutesItsAction := by
  intro s t p q a i rest hf hs hd ha hexec
  have haction (u : State) : actionWords a u = execBody i u := by simp only [actionWords, hd, action_eq_body ha]
  have hbegun : (s.actionBegun p (some (.done q) :: rest)).fault = none := hf
  have hreaches := execBody_reaches (s := s.actionBegun p (some (.done q) :: rest)) ha
  obtain ⟨hbody, hnone⟩ | ⟨hbody, c, hc⟩ := execBody_of_exec hbegun hreaches hexec
  case inl =>
    rw [hbody] at hreaches
    have hscript := Path.script_kept hreaches (not_runsProc_of_agent ha)
    exact ⟨fun _ => exec_procStep_of_done hf hs ((haction _).trans hbody) hscript, fun hne => absurd hnone hne⟩
  case inr =>
    exact ⟨fun hnone => absurd (hc.symm.trans hnone) (Option.some_ne_none c),
      fun _ => exec_procStep_of_raised hf hs ((haction _).trans hbody)⟩

/-- Settles O52: the decoding comes before the action, and its fault ends the step. -/
theorem procStepFaultsOnAnIllegalAction : Obligations.ProcStepFaultsOnAnIllegalAction := by
  intro s p a e rest hf hs hd
  refine exec_procStep_of_raised (t := (s.actionBegun p rest).withFault .encoding) hf hs ?_
  rw [← raise_eq_withFault (s := s.actionBegun p rest) hf]
  simp only [actionWords, hd]

/-! A step without a move. -/

/-- A step with no move is stuck (R100, I12). -/
theorem procStep_noMove (hs : s.io.script = none :: rest) : procStep s = .stopped .processorNoMove := by
  rw [procStep_script hs, procMoves_script (s := s.stepBegun) hs]

/-- Between transactions neither flag of the engine is set (R26). -/
theorem eng_of_quiet (hq : s.quiet = true) : s.eng = ⟨false, false⟩ := by
  obtain ⟨⟨-, hh⟩, hr⟩ := (quiet_iff s).1 hq
  exact congrArg₂ Eng.mk hr hh

/-- A run that no run or handler surrounds is its steps, between its beginning and its end (R103). -/
theorem exec_run (hf : s.fault = none) (he : s.eng = ⟨false, false⟩) (n : Word) :
    exec (.run n) s = (endRun (runSteps n.toNat (s.setInRun true))).outcome := by
  rw [exec_eq_body hf]
  exact congrArg Eff.outcome (if_neg (by rw [he]; decide))

/-- Settles O53: the first piece of the step is stuck, and of a run's first step too. -/
theorem processorWithoutMoveIsStuck : Obligations.ProcessorWithoutMoveIsStuck := by
  intro s rest hf hs
  refine ⟨by rw [exec_eq_body hf, execBody, procStep_noMove hs, Eff.outcome_stopped], fun n hn hq => ?_⟩
  obtain ⟨m, hm⟩ : ∃ m, n.toNat = m + 1 := Nat.exists_eq_add_of_le' (one_le_toNat hn)
  have hstep : runStep (s.setInRun true) = .stopped .processorNoMove := by
    rw [runStep, procStep_noMove (s := s.setInRun true) hs, Eff.bind_stopped]
  rw [exec_run hf (eng_of_quiet hq), hm, runSteps, hstep]
  rfl

end Sys2Proof.Machine
end

section
/-! PROOFS. The family of 45_engine, the step sequencer as a sequence of transactions (R103): the bodies of the transactions
one after another are the run's steps, and end as the transactions end. -/

namespace Sys2Proof.Machine

variable {i : Instr} {is js : List Instr} {s : State}

/-- The bodies of operations one after another, up to a raised fault or a stuck piece. -/
def bodies : List Instr → State → Eff Unit
  | [], s => .done () s
  | i :: is, s => (execBody i s).bind fun _ t => bodies is t

theorem Eff.bind_assoc {α β γ : Type} (e : Eff α) (k : α → State → Eff β) (l : β → State → Eff γ) :
    (e.bind k).bind l = e.bind fun a t => (k a t).bind l := by cases e <;> rfl

theorem Eff.bind_done_eq (e : Eff Unit) : (e.bind fun _ t => .done () t) = e := by cases e <;> rfl

theorem bodies_append : bodies (is ++ js) s = (bodies is s).bind fun _ t => bodies js t := by
  induction is generalizing s with
  | nil => rfl
  | cons i is ih => simp only [List.cons_append, bodies, ih, Eff.bind_assoc]

/-- One iteration of a run is the bodies of its five transactions (R103). -/
theorem bodies_runBody : bodies runBody s = runStep s := by
  simp only [runBody, bodies, execBody, Eff.bind_done_eq, runStep]

theorem bodies_copies (n : Nat) : bodies (copies n runBody) s = runSteps n s := by
  induction n generalizing s with
  | zero => rfl
  | succ n ih => simp only [copies, bodies_append, bodies_runBody, ih, runSteps]

theorem mem_of_mem_copies {n : Nat} (h : i ∈ copies n is) : i ∈ is := by
  induction n with
  | zero => cases h
  | succ n ih => exact (List.mem_append.1 h).elim id ih

/-- What the transactions of an iteration can do. -/
theorem runBody_reaches (h : i ∈ runBody) : Reaches i s (execBody i s) := by
  simp only [runBody, List.mem_cons, List.not_mem_nil, or_false] at h
  obtain rfl | rfl | rfl | rfl | rfl := h
  · exact procStep_reaches (.inl rfl)
  · exact timerTick_reaches (.inl (by decide)) _
  · exact timerTick_reaches (.inl (by decide)) _
  · exact btdmpTick_reaches (.inl (by decide)) _
  · exact btdmpTick_reaches (.inl (by decide)) _

/-- On a faulted block a sequence of transactions has no effect (R111). -/
theorem chain_faulted {c : FaultCode} (hf : s.fault = some c) : chain is s = .next s := by
  induction is with
  | nil => rfl
  | cons i is ih => rw [chain_cons is ((faultedBlockIgnoresEveryTransaction s c hf).1 i), ih]

/-- Transactions of a run one after another end as their bodies do: after a raised fault the later ones have no effect, as
the fault ends the bodies. -/
theorem chain_eq_bodies (hi : ∀ i ∈ is, i ∈ runBody) (hf : s.fault = none) : chain is s = (bodies is s).outcome := by
  induction is generalizing s with
  | nil => rfl
  | cons i is ih =>
    obtain ⟨hhead, htail⟩ := List.forall_mem_cons.1 hi
    have hreaches := runBody_reaches (s := s) hhead
    have hexec := exec_eq_body hf i
    rw [bodies]
    cases hbody : execBody i s with
    | done _ t =>
      rw [hbody] at hreaches hexec
      rw [chain_cons is hexec, ih htail (hreaches.done_fault hf), Eff.bind_done]
    | raised t =>
      rw [hbody] at hreaches hexec
      obtain ⟨c, hc⟩ := hreaches.raised_fault hf
      rw [chain_cons is hexec, chain_faulted hc, Eff.bind_raised, Eff.outcome_raised]
    | stopped f => rw [hbody] at hexec; rw [chain, hexec]; rfl

/-- The transactions of `n` iterations are the steps of a run of `n`. -/
theorem chain_copies_runBody (hf : s.fault = none) (n : Nat) :
    chain (copies n runBody) s = (runSteps n s).outcome := by
  rw [chain_eq_bodies (fun _ h => mem_of_mem_copies h) hf, bodies_copies]

/-- The end of a run clears `in_run` in whatever state the run ends (R26, log 9). -/
theorem endRun_outcome (e : Eff Unit) : (endRun e).outcome = mapNext (fun t => t.setInRun false) e.outcome := by
  cases e <;> rfl

/-- A run inside a run or a handler is refused (R103). -/
theorem exec_run_reentrant (hf : s.fault = none) (he : s.eng.inRun = true ∨ s.eng.inHandler = true) (n : Word) :
    exec (.run n) s = .next (s.withFault .reentrantRun) := by
  have hguard : (s.eng.inRun || s.eng.inHandler) = true := by simpa using he
  rw [exec_eq_body hf, ← raise_eq_withFault hf]
  exact congrArg Eff.outcome (if_pos hguard)

/-- Settles O54: the run's steps end as the repeated sequence does, and the run's end clears `in_run` after either. -/
theorem runIsTheRepeatedSequence : Obligations.RunIsTheRepeatedSequence := by
  refine ⟨fun n => issuedAs_of_wellFormed rfl, fun s n hf => ⟨fun he => exec_run_reentrant hf he n, fun he => ?_⟩⟩
  have hstart : s.setInRun true = { s with eng := ⟨true, false⟩ } := by rw [State.setInRun, he]
  rw [exec_run hf he, endRun_outcome, ← chain_copies_runBody (s := s.setInRun true) hf, hstart]
  rfl

end Sys2Proof.Machine
end

section
/-! PROOFS. The family of 45_engine, a run of a Processor that issues nothing (R103, R104): what each piece of a step leaves
untouched, and how far it moves each timer on in its period. -/

namespace Sys2Proof.Machine

variable {s t u : State} {k : UnitId} {v : Vec} {q : ProcState} {ms rest : List (Option ProcMove)} {m n : Nat}

/-! How far a timer moves on. -/

/-- Between the two states timer `k` has counted `n` ticks: it fired once for each end of a period that they pass (R65). -/
def Advances (k : UnitId) (n : Nat) (s t : State) : Prop :=
  ∀ p e, s.InPhase k p e → t.InPhase k p ((e + n) % p.toNat) ∧
    t.hist.count (.raise (timerVec k)) = s.hist.count (.raise (timerVec k)) + (e + n) / p.toNat

theorem Advances.trans (h : Advances k m s u) (h' : Advances k n u t) : Advances k (m + n) s t := by
  intro p e hphase
  obtain ⟨hu, hfired⟩ := h p e hphase
  obtain ⟨ht, hfired'⟩ := h' p _ hu
  have hpassed : e + (m + n) = p.toNat * ((e + m) / p.toNat) + ((e + m) % p.toNat + n) := by
    have := Nat.div_add_mod (e + m) p.toNat; omega
  refine ⟨?_, ?_⟩
  · rwa [hpassed, Nat.mul_add_mod]
  · rw [hfired', hfired, hpassed, Nat.mul_add_div (Nat.zero_lt_of_lt hphase.elapsed_lt), Nat.add_assoc]

/-- A timer that is not written and whose vector is not raised has counted no tick. -/
theorem advances_zero (hf : t.fault = s.fault) (hicu : t.icu = s.icu) (htimer : t.timer.get k = s.timer.get k)
    (hraised : t.hist.count (.raise (timerVec k)) = s.hist.count (.raise (timerVec k))) : Advances k 0 s t := by
  intro p e h
  rw [Nat.add_zero, Nat.mod_eq_of_lt h.elapsed_lt, Nat.div_eq_of_lt h.elapsed_lt]
  exact ⟨⟨hf ▸ h.fault_none, hicu ▸ h.vec_idle, htimer ▸ h.running, htimer ▸ h.period, htimer ▸ h.elapsed, h.elapsed_lt⟩,
    hraised⟩

/-! What the pieces of a run leave untouched. -/

/-- `n` Processor steps lie between the two states and `ms` are the Processor's moves at their end; beside these only the
units, the Processor's state and the history may differ. -/
def State.IdlesTo (s : State) (n : Nat) (ms : List (Option ProcMove)) (t : State) : Prop :=
  ∃ timer btdmp proc hist, t =
    { s with
      timer := timer
      btdmp := btdmp
      proc := proc
      hist := hist
      steps := s.steps + n
      io := { s.io with script := ms } }

theorem State.IdlesTo.trans (h : s.IdlesTo m ms u) (h' : u.IdlesTo n rest t) : s.IdlesTo (m + n) rest t := by
  obtain ⟨_, _, _, _, rfl⟩ := h
  obtain ⟨timer, btdmp, proc, hist, rfl⟩ := h'
  exact ⟨timer, btdmp, proc, hist, by simp only [Nat.add_assoc]⟩

theorem State.IdlesTo.script (h : s.IdlesTo n ms t) : t.io.script = ms := by
  obtain ⟨_, _, _, _, rfl⟩ := h; rfl

theorem State.IdlesTo.icu (h : s.IdlesTo n ms t) : t.icu = s.icu := by
  obtain ⟨_, _, _, _, rfl⟩ := h; rfl

/-! The ticks. -/

/-- What a tick of a unit wired to the vector `v` leaves: no step, no timer of another vector, no trigger of another
vector. -/
structure State.TickedTo (s : State) (v : Vec) (t : State) : Prop where
  idles : s.IdlesTo 0 s.io.script t
  timers : ∀ k, timerVec k ≠ v → t.timer.get k = s.timer.get k
  raised : ∀ w, w ≠ v → t.hist.count (.raise w) = s.hist.count (.raise w)

theorem State.IdlesTo.tick (h : s.IdlesTo n ms u) (h' : u.TickedTo v t) : s.IdlesTo n ms t := by
  have hticked := h'.idles
  rw [h.script] at hticked
  exact h.trans hticked

theorem State.TickedTo.refl (s : State) (v : Vec) : s.TickedTo v s :=
  ⟨⟨_, _, _, _, rfl⟩, fun _ _ => rfl, fun _ _ => rfl⟩

theorem State.TickedTo.trans (h : s.TickedTo v u) (h' : u.TickedTo v t) : s.TickedTo v t where
  idles := h.idles.tick h'
  timers k hk := (h'.timers k hk).trans (h.timers k hk)
  raised w hw := (h'.raised w hw).trans (h.raised w hw)

theorem afterTrigger_tickedTo : s.TickedTo v (s.afterTrigger v) where
  idles := ⟨_, _, _, _, rfl⟩
  timers _ _ := rfl
  raised w hw := by
    rw [afterTrigger_hist, List.count_append]
    cases vecGet s.icu.route v <;> simp [answerEvent, hw.symm]

theorem setCounter_tickedTo (c : Word) : s.TickedTo (timerVec k) (setCounter k c s) where
  idles := ⟨_, _, _, _, rfl⟩
  timers _ hj := PerUnit.get_set_ne _ _ fun h => hj (congrArg timerVec h)
  raised _ _ := rfl

theorem btdmpFired_tickedTo : s.TickedTo v (s.btdmpFired k) :=
  ⟨⟨_, _, _, _, rfl⟩, fun _ _ => rfl, fun _ _ => rfl⟩

/-- A timer's tick completes when no vector is being triggered. -/
theorem timerTick_tickedTo (ha : s.icu.active = Icu.idle) :
    ∃ t, timerTick k s = .done () t ∧ s.TickedTo (timerVec k) t := by
  cases hr : (s.timer.get k).running with
  | false => exact ⟨s, timerTick_disabled hr, .refl s _⟩
  | true =>
    by_cases hc : (s.timer.get k).counter - 1 = 0
    · exact ⟨_, timerTick_expire hr hc (by rw [ha, vecGet_idle]), afterTrigger_tickedTo.trans (setCounter_tickedTo _)⟩
    · exact ⟨_, timerTick_count hr hc, setCounter_tickedTo _⟩

/-- A Btdmp unit's tick completes when no vector is being triggered, under every policy. -/
theorem btdmpTick_tickedTo (ha : s.icu.active = Icu.idle) :
    ∃ t, btdmpTick k s = .done () t ∧ s.TickedTo Config.vecBtdmp t := by
  cases hfire : (fireStep s.cfg.btdmpPolicy (s.btdmp.get k)).2 with
  | false => exact ⟨_, btdmpTick_silent hfire, btdmpFired_tickedTo⟩
  | true =>
    have hidle : (s.btdmpFired k).mayCall (.icu Config.vecBtdmp) = true := by
      change (!vecGet s.icu.active _) = true
      rw [ha, vecGet_idle]; rfl
    exact ⟨_, (btdmpTick_fires hfire).trans (callHandler_eq hidle _), btdmpFired_tickedTo.trans afterTrigger_tickedTo⟩

/-- A tick moves no timer of another vector on. -/
theorem State.TickedTo.advances_zero (h : s.TickedTo v t) (hk : timerVec k ≠ v) : Advances k 0 s t := by
  have hfault : t.fault = s.fault := by obtain ⟨_, _, _, _, rfl⟩ := h.idles; rfl
  exact Machine.advances_zero hfault h.idles.icu (h.timers k hk) (h.raised _ hk)

/-- A timer's own tick moves it on by one. -/
theorem timerTick_advances (h : timerTick k s = .done () t) : Advances k 1 s t := by
  intro p e hphase
  obtain ⟨u, hu, hmoved⟩ := timerTick_inPhase hphase
  obtain rfl : t = u := by rw [h] at hu; cases hu; rfl
  exact hmoved

/-! The steps. -/

/-- A Processor step that ends at once is one idle step. -/
theorem actionBegun_idlesTo : s.IdlesTo 1 rest (s.actionBegun q rest) := ⟨_, _, _, _, rfl⟩

/-- A Processor step that ends at once moves no timer on. -/
theorem actionBegun_advances : Advances k 0 s (s.actionBegun q rest) :=
  advances_zero rfl rfl rfl (by simp [State.actionBegun])

/-- An iteration of a run whose Processor step ends at once moves each timer on by one (R103, R104). -/
theorem runStep_idle (ha : s.icu.active = Icu.idle) (hs : s.io.script = some (.done q) :: rest) :
    ∃ t, runStep s = .done () t ∧ s.IdlesTo 1 rest t ∧ ∀ k, Advances k 1 s t := by
  have idle {u : State} (h : s.IdlesTo 1 rest u) : u.icu.active = Icu.idle := by rw [h.icu, ha]
  have hbegun : s.IdlesTo 1 rest (s.actionBegun q rest) := actionBegun_idlesTo
  obtain ⟨t0, h0, ht0⟩ := timerTick_tickedTo (k := .u0) (idle hbegun)
  have hafter0 := hbegun.tick ht0
  obtain ⟨t1, h1, ht1⟩ := timerTick_tickedTo (k := .u1) (idle hafter0)
  have hafter1 := hafter0.tick ht1
  obtain ⟨t2, h2, ht2⟩ := btdmpTick_tickedTo (k := .u0) (idle hafter1)
  have hafter2 := hafter1.tick ht2
  obtain ⟨t3, h3, ht3⟩ := btdmpTick_tickedTo (k := .u1) (idle hafter2)
  refine ⟨t3, ?run, hafter2.tick ht3, fun k => ?advances⟩
  case run => rw [runStep, procStep_done hs, Eff.bind_done, h0, Eff.bind_done, h1, Eff.bind_done, h2, Eff.bind_done, h3]
  case advances =>
    have timers : Advances k 1 s t1 := by
      cases k with
      | u0 => exact (actionBegun_advances.trans (timerTick_advances h0)).trans (ht1.advances_zero (by decide))
      | u1 => exact (actionBegun_advances.trans (ht0.advances_zero (by decide))).trans (timerTick_advances h1)
    have hbtdmp : timerVec k ≠ Config.vecBtdmp := by cases k <;> decide
    exact (timers.trans (ht2.advances_zero hbtdmp)).trans (ht3.advances_zero hbtdmp)

/-- As many idle steps as ends of steps stand in front of the Processor's moves. -/
theorem runSteps_idle (ps : List ProcState) (ha : s.icu.active = Icu.idle)
    (hs : s.io.script = ps.map (fun p => some (.done p)) ++ rest) :
    ∃ t, runSteps ps.length s = .done () t ∧ s.IdlesTo ps.length rest t ∧ ∀ k, Advances k ps.length s t := by
  induction ps generalizing s with
  | nil =>
    obtain rfl : s.io.script = rest := hs
    exact ⟨s, rfl, ⟨_, _, _, _, rfl⟩, fun _ => advances_zero rfl rfl rfl rfl⟩
  | cons p ps ih =>
    obtain ⟨u, hu, hidle, hadv⟩ := runStep_idle ha hs
    obtain ⟨t, ht, hidle', hadv'⟩ := ih (s := u) (by rw [hidle.icu, ha]) hidle.script
    rw [List.length_cons, Nat.add_comm]
    refine ⟨t, ?_, hidle.trans hidle', fun k => (hadv k).trans (hadv' k)⟩
    rw [Nat.add_comm, runSteps, hu, Eff.bind_done, ht]

/-- A run of idle steps completes; between its beginning and its end lie its steps alone (R103). -/
theorem exec_run_idle {n : Word} {ps : List ProcState} (hf : s.fault = none) (hq : s.quiet = true)
    (hn : ps.length = n.toNat) (hs : s.io.script = ps.map (fun p => some (.done p)) ++ rest) :
    ∃ t, exec (.run n) s = .next t ∧ s.IdlesTo n.toNat rest t ∧ ∀ k, Advances k n.toNat s t := by
  have he := eng_of_quiet hq
  obtain ⟨⟨ha, -⟩, -⟩ := (quiet_iff s).1 hq
  obtain ⟨t, ht, hidle, hadv⟩ := runSteps_idle (s := s.setInRun true) ps ha hs
  rw [hn] at ht hidle hadv
  refine ⟨t.setInRun false, ?run, ?idle, fun k => ?advances⟩
  case run => rw [exec_run hf he, ht]; rfl
  case idle =>
    obtain ⟨timer, btdmp, proc, hist, rfl⟩ := hidle
    exact ⟨timer, btdmp, proc, hist, by simp [State.setInRun, he]⟩
  case advances =>
    have hbegin : Advances k 0 s (s.setInRun true) := advances_zero rfl rfl rfl rfl
    have hend : Advances k 0 t (t.setInRun false) := advances_zero rfl rfl rfl rfl
    have hrun := (hbegin.trans (hadv k)).trans hend
    rwa [Nat.zero_add] at hrun

/-- Settles O55: what the run leaves untouched, field by field. -/
theorem runOfIdleStepsCompletes : Obligations.RunOfIdleStepsCompletes := by
  intro s n ps rest hf hq hn hs
  obtain ⟨t, ht, ⟨timer, btdmp, proc, hist, rfl⟩, -⟩ := exec_run_idle hf hq hn hs
  exact ⟨_, ht, hf, rfl, rfl, rfl, rfl, rfl, rfl, rfl, rfl, rfl⟩

/-- Settles O56: a timer that was just loaded is at the start of its period, and the run moves it on by `n` ticks. -/
theorem runFiresTheTimerOncePerPeriod : Obligations.RunFiresTheTimerOncePerPeriod := by
  intro s n ps rest k p hf hq hn hs hp ht
  obtain ⟨⟨ha, -⟩, -⟩ := (quiet_iff s).1 hq
  have hstart : s.InPhase k p 0 :=
    ⟨hf, by rw [ha, vecGet_idle], by rw [ht], by rw [ht], by rw [ht]; rfl, one_le_toNat hp⟩
  obtain ⟨t, hrun, -, hadv⟩ := exec_run_idle hf hq hn hs
  obtain ⟨hphase, hfired⟩ := hadv k p 0 hstart
  rw [Nat.zero_add] at hphase hfired
  exact ⟨t, hrun, hfired, Nat.eq_sub_of_add_eq hphase.elapsed⟩

end Sys2Proof.Machine
end

section
/-! PROOFS. The family of 60_exceptions, what transactions leave alone: the frame of the host's operations (R120) and the
block's idle step (R125). -/

namespace Sys2Proof.Machine

variable {op : Instr} {s t : State}

/-! The peripherals. -/

/-- What only the Processor's operations, the engine's, `RUN` and `RESET` write (R120). -/
def State.peripherals (s : State) : PerUnit Timer × PerUnit Btdmp × Dma × Icu × Nat × Eng :=
  (s.timer, s.btdmp, s.dma, s.icu, s.steps, s.eng)

theorem setApbp_peripherals (s : State) (c : Chan) (p : Apbp) : (s.setApbp c p).peripherals = s.peripherals := by
  cases c <;> rfl

/-- A move that writes a peripheral is one of `RESET`, or of an operation that is not the host's own. A trigger writes
none: it ends with its vector and its handler released. -/
theorem Move.peripherals (h : Move op s t) : t.peripherals = s.peripherals ∨ op = .reset ∨ Inner op := by
  cases h with
  | stepBegin ho => exact .inr (.inr ho.inner)
  | route _ _ ho =>
    refine .inr (.inr ?_)
    obtain ⟨v, r, rfl⟩ | ho := ho
    · exact .inl (by simp [Instr.agent])
    · exact ho.inner
  | timerStart _ _ ho | timerStop _ ho | timerCount _ ho | timerExpire _ ho | timerCaught _ ho => exact .inr (.inr ho)
  | btdmpStart _ _ ho | btdmpStop _ ho | btdmpFire _ ho | dma _ ho => exact .inr (.inr ho)
  | inRun _ ho => exact .inr (.inr (.inr ho))
  | reset ho => exact .inr (.inl ho)
  | apbp c p => exact .inl (setApbp_peripherals s c p)
  | _ => exact .inl rfl

/-- Settles O22: under a host operation other than `RESET` and `RUN` no move writes a peripheral. -/
theorem hostOperationsLeaveThePeripherals : Obligations.HostOperationsLeaveThePeripherals := by
  intro i s t ha hreset hrun h
  have host : ¬ (i = .reset ∨ Inner i) := by
    rintro (ho | ho | ⟨n, ho⟩)
    · exact hreset ho
    · exact ho ha
    · exact hrun n ho
  have kept : t.peripherals = s.peripherals :=
    exec_frame (f := State.peripherals) (fun _ _ hm => hm.peripherals.resolve_right host) (fun _ _ => rfl) h
  simpa only [State.peripherals, Prod.mk.injEq] using kept

/-! The idle block. -/

/-- Settles O8: with no call to take, the block is settled as it stands. -/
theorem idleBlockKeepsItsState : Obligations.IdleBlockKeepsItsState := by
  intro s hc
  have settled : nextCall s = .settled s := by simp only [nextCall, hc]
  simp only [step, settled]

end Sys2Proof.Machine
end

section
/-! PROOFS. The family of 70_reset_and_hazards: what a `RESET` restores and keeps (R127, R130), and that a second one finds
nothing left to restore (R129). -/

namespace Sys2Proof.Machine

variable {s : State}

/-- The state after a `RESET` that leaves the Processor in state `p`: the block's parts restored, the event recorded and
one draw taken. -/
def State.afterReset (s : State) (p : ProcState) : State :=
  { resetBlock s with
    proc := p
    hist := s.hist ++ [.resetDone]
    io := { s.io with draws := s.io.draws + 1 } }

/-- A `RESET` on a block without a fault: the Processor's state is what `PROC.reset` makes of it (R99, R127). -/
theorem exec_reset (hf : s.fault = none) :
    exec .reset s = .next (s.afterReset (Config.procReset s.io.draws s.proc)) := by
  rw [exec_eq_body hf, execBody, Eff.outcome_done]
  rfl

/-- A restored block has nothing left to restore (R129). -/
theorem resetBlock_afterReset (s : State) (p : ProcState) : resetBlock (s.afterReset p) = s.afterReset p := rfl

/-- On a restored block a `RESET` writes the history, the Processor's state and the number of draws alone. -/
theorem exec_reset_of_restored (hf : s.fault = none) (hr : resetBlock s = s) :
    exec .reset s = .next { s with
      proc := Config.procReset s.io.draws s.proc
      hist := s.hist ++ [.resetDone]
      io := { s.io with draws := s.io.draws + 1 } } := by
  rw [exec_reset hf, State.afterReset, hr]

/-- Settles O57: the restored parts are the literal values of R130's table, and a faulted block runs no transaction. -/
theorem resetRestoresEveryField : Obligations.ResetRestoresEveryField := by
  refine ⟨issuedAs_of_wellFormed rfl,
    fun s hf => ⟨Config.procReset s.io.draws s.proc, ?table, fun _ => rfl, fun c => ?faulted⟩⟩
  case table => rw [exec_reset hf, ← hf]; rfl
  case faulted => exact (faultedBlockIgnoresEveryTransaction _ c rfl).1 .reset

/-- Settles O58: the second `RESET` runs on a restored block. -/
theorem secondResetChangesOnlyHistoryAndProcessor : Obligations.SecondResetChangesOnlyHistoryAndProcessor := by
  intro s t hf h
  rw [exec_reset hf] at h
  cases h
  exact ⟨_, exec_reset_of_restored hf (resetBlock_afterReset s _)⟩

end Sys2Proof.Machine
end
